-- ==== Sys2Proof/Word.lean ====
section
/-! DEFINITION. The word types of the core (spec 00_scope R10): unsigned, bit 0 least significant. -/

namespace Sys2Proof

/-- A payload, state, suffix or response byte (R10, `UInt8`). -/
abbrev Byte := BitVec 8

/-- A 16-bit operand field: BITS, CAP (R73, R77). -/
abbrev Half := BitVec 16

/-- A word of a transaction, and the status word (R70, R30). -/
abbrev Word := BitVec 32

/-- A lane of the state (R10, R22, `UInt64`). -/
abbrev Lane := BitVec 64

end Sys2Proof
end

