-- ==== Sys2Proof/Syntax.lean ====
section
/-! DEFINITION. The commands of the core: one constructor of `Instr` per row of spec/opcode_table.json (spec 30_encoding R89). -/

namespace Sys2Proof

/-- The padding mode (00_scope R8; 10_state R26). -/
inductive Mode where
  | sha3
  | legacyKeccak
  deriving DecidableEq, Repr

/-- The output size selector, one per row of the table of R6: 224, 256, 384 or 512 bits. -/
inductive SizeSel where
  | s224
  | s256
  | s384
  | s512
  deriving DecidableEq, Repr

/-- What the host sends: 32-bit words, framed by the interface (R70). The empty transaction is one the core must reject (R72). -/
abbrev Transaction := List Word

/-- The seven host commands with their operands as decoded by R84 (R89). -/
inductive Instr where
  /-- INIT (R73, R160): construct a context of a raw requested size. -/
  | init (m : Mode) (bits : Half)
  /-- INITF (R74, R162): construct a context of a fixed size. -/
  | initf (m : Mode) (sz : SizeSel)
  /-- ABSORB (R75, R131): append message bytes. -/
  | absorb (bytes : List Byte)
  /-- FINALIZE (R76, R142): pad, permute, return the digest. -/
  | finalize
  /-- ONESHOT (R77, R164): construct, absorb, finalize, return `cap` digest bytes. -/
  | oneshot (m : Mode) (bits : Half) (cap : Half) (bytes : List Byte)
  /-- RDDIG (R78, R146): read one digest byte. -/
  | rddig (idx : Byte)
  /-- STATUS (R79, R166): read the status word. -/
  | status
  deriving DecidableEq, Repr

end Sys2Proof
end

