-- ==== Sys2Proof/Config.lean ====
section
/-! DEFINITION. The implementation parameters of the core (spec 00_scope R5, R9).
Everything else about an instance is fixed by the spec; there is no free value in this model. -/

namespace Sys2Proof

/-- The two parameters the spec leaves to the integrator (R9). They are fixed for a run and are not state (R21). -/
structure Params where
  /-- `ONESHOT_224`: whether ONESHOT accepts outputBits = 224 (R9, R163, R169). -/
  oneshot224 : Bool
  /-- `NUM_INSTANCES`: how many independent engine instances a system holds (R9, R62). -/
  numInstances : Nat
  /-- NUM_INSTANCES is at least 1 (R9). -/
  atLeastOne : 1 ≤ numInstances := by decide
  deriving DecidableEq, Repr

namespace Config

/-- The spec's defaults: ONESHOT_224 = true, NUM_INSTANCES = 1 (R9, 92_eei_decisions D13, D22). -/
def params : Params := { oneshot224 := true, numInstances := 1 }

/-- `MAX_ABSORB`: the largest payload of one ABSORB or ONESHOT, fixed by the 16-bit length field (R9, D19). -/
def maxAbsorb : Nat := 65535

/-- The state width in bytes: b = 1600 bits (R5). -/
def stateBytes : Nat := 200

/-- Rounds per permutation (R5). -/
def rounds : Nat := 24

end Config
end Sys2Proof
end

