-- ==== Sys2Proof/WellFormed.lean ====
section
/-! DEFINITION. Which terms of `Instr` are commands the encoding can carry. The fixed-width operands are bounded by their
types; the one check left is the payload's length, at most MAX_ABSORB = 65535 bytes (spec 00_scope R9, 30_encoding R75, R77, R89). -/

namespace Sys2Proof

/-- The payload fits the 16-bit length field N (R75, R77). -/
def payloadFits (bytes : List Byte) : Bool :=
  decide (bytes.length ≤ Config.maxAbsorb)

/-- A command that some transaction spells (R89: "len ≤ 65535"). -/
def Instr.wellFormed : Instr → Bool
  | .init _ _ => true
  | .initf _ _ => true
  | .absorb bytes => payloadFits bytes
  | .finalize => true
  | .oneshot _ _ _ bytes => payloadFits bytes
  | .rddig _ => true
  | .status => true

end Sys2Proof
end

