-- ==== Sys2Proof/Decode.lean ====
section
/-! DEFINITION. The decoder: a total function from a transaction to a command or a named reason why it spells none
(spec 30_encoding R72, R82 to R86); after it the encoder, from the formats R73 to R79 and R87. -/

namespace Sys2Proof

/-! ### Fields -/

/-- `W0[31:28]` (R71). -/
def opcodeField (w : Word) : BitVec 4 := w.extractLsb' 28 4

/-- Bits 15..0 of a header word: BITS of INIT and ONESHOT's W0, N of ABSORB's W0 and ONESHOT's W1 (R82). -/
def lowHalf (w : Word) : Half := w.extractLsb' 0 16

/-- Bits 31..16 of ONESHOT's W1: CAP (R82). -/
def highHalf (w : Word) : Half := w.extractLsb' 16 16

/-- The mode code (R8): 0 Sha3, 1 LegacyKeccak. -/
def Mode.code : Mode → BitVec 1
  | .sha3 => 0
  | .legacyKeccak => 1

/-- The mode a bit M selects (R8). -/
def modeOfBit (b : Bool) : Mode := if b then .legacyKeccak else .sha3

/-- M = `W0[16]` (R82). -/
def modeField (w : Word) : Mode := modeOfBit (w.getLsbD 16)

/-- The size code (R6): 0 → 224, 1 → 256, 2 → 384, 3 → 512. -/
def SizeSel.code : SizeSel → BitVec 2
  | .s224 => 0
  | .s256 => 1
  | .s384 => 2
  | .s512 => 3

/-- The size a code selects; every code names one (R74). -/
def sizeOfCode (c : BitVec 2) : SizeSel :=
  if c = 0 then .s224 else if c = 1 then .s256 else if c = 2 then .s384 else .s512

/-- SZ = `W0[1:0]` (R82). -/
def sizeField (w : Word) : SizeSel := sizeOfCode (w.extractLsb' 0 2)

/-! ### Payload bytes -/

/-- The bytes of a payload word, least significant first (R83, 20_memory R52). -/
def wordBytes (w : Word) : List Byte :=
  [w.extractLsb' 0 8, w.extractLsb' 8 8, w.extractLsb' 16 8, w.extractLsb' 24 8]

/-- `unpack(ps, N)`: the N payload bytes; the bytes of the last word at positions N and above are ignored (R83). -/
def unpack (ps : List Word) (n : Nat) : List Byte := (ps.flatMap wordBytes).take n

/-- `ceil(N/4)` (R72). -/
def payloadWords (n : Nat) : Nat := (n + 3) / 4

/-! ### The decoder -/

/-- Why a transaction spells no command (R85). The core answers ILLEGAL_COMMAND to each alike (R183). -/
inductive DecodeError where
  /-- The empty transaction. -/
  | emptyTransaction
  /-- Opcode 0x0 or 0x8 to 0xF. -/
  | reservedOpcode
  /-- A nonzero bit in a reserved field. -/
  | reservedBits
  /-- The word count breaks R72. -/
  | wordCount
  deriving DecidableEq, Repr

/-- `Cmd ⊕ Illegal` (R84). -/
inductive Decoded where
  | cmd (i : Instr)
  | illegal (e : DecodeError)
  deriving DecidableEq, Repr

/-- The common shape of R84's arms: reserved bits zero, word count as the header says, then the command. -/
def checked (reservedZero countRight : Bool) (i : Instr) : Decoded :=
  if reservedZero then (if countRight then .cmd i else .illegal .wordCount) else .illegal .reservedBits

/-- Opcode 0x1 (R73): `W0[27:17] = 0`, one word. -/
def decodeInit (w0 : Word) (rest : List Word) : Decoded :=
  checked (w0.extractLsb' 17 11 == 0) rest.isEmpty (.init (modeField w0) (lowHalf w0))

/-- Opcode 0x2 (R74): `W0[27:17] = 0`, `W0[15:2] = 0`, one word. -/
def decodeInitf (w0 : Word) (rest : List Word) : Decoded :=
  checked (w0.extractLsb' 17 11 == 0 && w0.extractLsb' 2 14 == 0) rest.isEmpty (.initf (modeField w0) (sizeField w0))

/-- Opcode 0x3 (R75): `W0[27:16] = 0`, `1 + ceil(N/4)` words. -/
def decodeAbsorb (w0 : Word) (rest : List Word) : Decoded :=
  checked (w0.extractLsb' 16 12 == 0) (rest.length == payloadWords (lowHalf w0).toNat)
    (.absorb (unpack rest (lowHalf w0).toNat))

/-- Opcode 0x4 (R76): exactly 0x40000000, one word. -/
def decodeFinalize (w0 : Word) (rest : List Word) : Decoded :=
  checked (w0.extractLsb' 0 28 == 0) rest.isEmpty .finalize

/-- Opcode 0x5 (R77): `W0[27:17] = 0`, at least two words, `2 + ceil(N/4)` in all, with CAP and N in W1. -/
def decodeOneshot (w0 : Word) : List Word → Decoded
  | [] => if w0.extractLsb' 17 11 = 0 then .illegal .wordCount else .illegal .reservedBits
  | w1 :: rest =>
    checked (w0.extractLsb' 17 11 == 0) (rest.length == payloadWords (lowHalf w1).toNat)
      (.oneshot (modeField w0) (lowHalf w0) (highHalf w1) (unpack rest (lowHalf w1).toNat))

/-- Opcode 0x6 (R78): `W0[27:8] = 0`, one word. -/
def decodeRddig (w0 : Word) (rest : List Word) : Decoded :=
  checked (w0.extractLsb' 8 20 == 0) rest.isEmpty (.rddig (w0.extractLsb' 0 8))

/-- Opcode 0x7 (R79): exactly 0x70000000, one word. -/
def decodeStatus (w0 : Word) (rest : List Word) : Decoded :=
  checked (w0.extractLsb' 0 28 == 0) rest.isEmpty .status

/-- Decoding (R84). It reads no state. -/
def decode : Transaction → Decoded
  | [] => .illegal .emptyTransaction
  | w0 :: rest =>
    match (opcodeField w0).toNat with
    | 1 => decodeInit w0 rest
    | 2 => decodeInitf w0 rest
    | 3 => decodeAbsorb w0 rest
    | 4 => decodeFinalize w0 rest
    | 5 => decodeOneshot w0 rest
    | 6 => decodeRddig w0 rest
    | 7 => decodeStatus w0 rest
    | _ => .illegal .reservedOpcode

/-! ### The encoder -/

/-- Four bytes as a payload word, the first least significant (R83). -/
def wordOfBytes (b0 b1 b2 b3 : Byte) : Word := b3 ++ b2 ++ b1 ++ b0

/-- The payload words of a byte sequence; unused bytes of the last word are 0 (R83, R87). -/
def pack : List Byte → List Word
  | [] => []
  | [a] => [wordOfBytes a 0 0 0]
  | [a, b] => [wordOfBytes a b 0 0]
  | [a, b, c] => [wordOfBytes a b c 0]
  | a :: b :: c :: d :: rest => wordOfBytes a b c d :: pack rest

/-- `M << 16` (R87). -/
def modeBits (m : Mode) : Word := m.code.zeroExtend 32 <<< 16

/-- A payload's length as the 16-bit field N (R75, R77); a longer payload is not well-formed. -/
def lengthField (bytes : List Byte) : Half := BitVec.ofNat 16 bytes.length

/-- The words of a command (R73 to R79, R87). -/
def encode : Instr → Transaction
  | .init m bits => [0x10000000#32 ||| modeBits m ||| bits.zeroExtend 32]
  | .initf m sz => [0x20000000#32 ||| modeBits m ||| sz.code.zeroExtend 32]
  | .absorb bytes => (0x30000000#32 ||| (lengthField bytes).zeroExtend 32) :: pack bytes
  | .finalize => [0x40000000#32]
  | .oneshot m bits cap bytes =>
    (0x50000000#32 ||| modeBits m ||| bits.zeroExtend 32) :: (cap ++ lengthField bytes) :: pack bytes
  | .rddig idx => [0x60000000#32 ||| idx.zeroExtend 32]
  | .status => [0x70000000#32]

/-- How many words a command's transaction has (R72, R86). -/
def Instr.wordCount : Instr → Nat
  | .init _ _ => 1
  | .initf _ _ => 1
  | .absorb bytes => 1 + payloadWords bytes.length
  | .finalize => 1
  | .oneshot _ _ _ bytes => 2 + payloadWords bytes.length
  | .rddig _ => 1
  | .status => 1

/-- The header words of a command: 2 for ONESHOT, else 1 (R71). -/
def Instr.headerWords : Instr → Nat
  | .oneshot _ _ _ _ => 2
  | _ => 1

/-- The payload bytes of a command (R71). -/
def Instr.payload : Instr → List Byte
  | .absorb bytes => bytes
  | .oneshot _ _ _ bytes => bytes
  | _ => []

/-! ### What makes a transaction illegal, as the rule lists it -/

/-- The reserved bits of W0 under each opcode (R73 to R79). -/
def reservedMask : Nat → Word
  | 1 => 0x0FFE0000
  | 2 => 0x0FFEFFFC
  | 3 => 0x0FFF0000
  | 4 => 0x0FFFFFFF
  | 5 => 0x0FFE0000
  | 6 => 0x0FFFFF00
  | 7 => 0x0FFFFFFF
  | _ => 0

/-- The word count a transaction's header asks for; a ONESHOT needs at least its two header words (R72). -/
def requiredWords : Transaction → Nat
  | [] => 1
  | w0 :: rest =>
    match w0.toNat / 2 ^ 28, rest with
    | 3, _ => 1 + (w0.toNat % 2 ^ 16 + 3) / 4
    | 5, [] => 2
    | 5, w1 :: _ => 2 + (w1.toNat % 2 ^ 16 + 3) / 4
    | _, _ => 1

/-- The five kinds of illegal transaction (R85). -/
def illegalForm (ws : Transaction) : Bool :=
  match ws with
  | [] => true
  | w0 :: _ =>
    let op := w0.toNat / 2 ^ 28
    op == 0 || decide (8 ≤ op) || (w0 &&& reservedMask op != 0) || (ws.length != requiredWords ws)

/-! ### The opcode table, as data -/

/-- Where a row's payload length stands (R72). -/
inductive PayloadLength where
  | noPayload
  | inW0
  | inW1
  deriving DecidableEq, Repr

/-- One row of spec/opcode_table.json. -/
structure OpcodeRow where
  mnemonic : String
  pattern : Word
  mask : Word
  payload : PayloadLength
  deriving DecidableEq, Repr

/-- spec/opcode_table.json, row by row: its match, mask and word count. -/
def opcodeTable : List OpcodeRow :=
  [ ⟨"INIT", 0x10000000, 0xFFFE0000, .noPayload⟩,
    ⟨"INITF", 0x20000000, 0xFFFEFFFC, .noPayload⟩,
    ⟨"ABSORB", 0x30000000, 0xFFFF0000, .inW0⟩,
    ⟨"FINALIZE", 0x40000000, 0xFFFFFFFF, .noPayload⟩,
    ⟨"ONESHOT", 0x50000000, 0xFFFE0000, .inW1⟩,
    ⟨"RDDIG", 0x60000000, 0xFFFFFF00, .noPayload⟩,
    ⟨"STATUS", 0x70000000, 0xFFFFFFFF, .noPayload⟩ ]

/-- A transaction is of a row's form: the first word matches and the word count is the one R72 requires. -/
def OpcodeRow.accepts (r : OpcodeRow) (ws : Transaction) : Bool :=
  match r.payload, ws with
  | _, [] => false
  | .noPayload, w0 :: rest => w0 &&& r.mask == r.pattern && rest.length == 0
  | .inW0, w0 :: rest => w0 &&& r.mask == r.pattern && rest.length == ((w0 &&& 0xFFFF#32).toNat + 3) / 4
  | .inW1, [_] => false
  | .inW1, w0 :: w1 :: rest =>
    w0 &&& r.mask == r.pattern && rest.length == ((w1 &&& 0xFFFF#32).toNat + 3) / 4

/-- The row of a command, by its mnemonic. -/
def Instr.mnemonic : Instr → String
  | .init _ _ => "INIT"
  | .initf _ _ => "INITF"
  | .absorb _ => "ABSORB"
  | .finalize => "FINALIZE"
  | .oneshot _ _ _ _ => "ONESHOT"
  | .rddig _ => "RDDIG"
  | .status => "STATUS"

/-! ### One table word as a transaction -/

/-- How many words the header of a table word asks for (R72, R86). -/
def tableWords (w0 w1 : Word) : Nat :=
  match (opcodeField w0).toNat with
  | 3 => 1 + payloadWords (lowHalf w0).toNat
  | 5 => 2 + payloadWords (lowHalf w1).toNat
  | _ => 1

/-- The transaction of an instruction given as a number: bit 0 is bit 0 of W0, later words count on from it, every bit at
`nbits` and above is 0, and the frame is as long as the header asks. -/
def tableTransaction (nbits w : Nat) : Transaction :=
  let word := fun k => BitVec.ofNat 32 ((w % 2 ^ nbits) >>> (32 * k))
  (List.range (tableWords (word 0) (word 1))).map word

/-- The command the decoder reads from the table word `w` of `nbits` bits. -/
def decodeTableWord (nbits w : Nat) : Option Instr :=
  match decode (tableTransaction nbits w) with
  | .cmd i => some i
  | .illegal _ => none

end Sys2Proof
end

