-- ==== Sys2Proof/Machine/State.lean ====
section
/-! DEFINITION. The state of the machine as plain data: one engine instance (spec 10_state R20, R34), what its host has still
to send on the command port, and the responses it has emitted. The core has no program counter, no flags, no memory beside
the lane file, and no exception registers (R28, R29, R32; 20_memory R54; 60_exceptions R180, R188). -/

namespace Sys2Proof.Machine

/-- The lane file `A[0..24]` (R22). -/
abbrev Lanes := Vector Lane 25

/-- All 1600 bits 0 (R33, R161). -/
def zeroLanes : Lanes := Vector.replicate 25 0

/-- The lifecycle marker (R24). -/
inductive Stage where
  /-- No context has been constructed since reset. -/
  | noContext
  /-- A context was constructed and nothing has been absorbed. -/
  | initialized
  /-- At least one ABSORB succeeded. -/
  | absorbing
  /-- The digest is computed and the state is frozen. -/
  | finalized
  deriving DecidableEq, Repr

/-- The architectural state of one engine instance: exactly the rows of R20, with the types of R34. -/
structure Engine where
  /-- `A[0..24]` (R22). -/
  lanes : Lanes
  /-- `stage` (R24). -/
  stage : Stage
  /-- `mode` (R26). -/
  mode : Mode
  /-- `sizeSel` (R25). -/
  sizeSel : SizeSel
  /-- `pos`, the byte position in the current block (R27). -/
  pos : Nat
  deriving DecidableEq, Repr

/-- The status of a response (30_encoding R81). Codes 4 to 255 are never emitted, so they are no constructors. -/
inductive StatusCode where
  | ok
  | paramError
  | precondition
  | illegalCommand
  deriving DecidableEq, Repr

/-- One response (R80). -/
structure Response where
  status : StatusCode
  data : List Byte
  deriving DecidableEq, Repr

/-- What the host can do to the core (70_reset_and_hazards R207): send a transaction, or assert reset. -/
inductive HostEvent where
  /-- A framed transaction arrives (R70). -/
  | transaction (ws : Transaction)
  /-- Reset is asserted (R200). `interrupted` is the transaction that was executing when it was asserted, if any: that
  transaction is lost without a response (R201). -/
  | reset (interrupted : Option Transaction)
  deriving DecidableEq, Repr

/-- The machine: the engine and its two ports.
The two port fields are not in R20's list: they hold the input of the run (R21, R210) and its observation (R210). -/
structure State where
  /-- The architectural state (R20). -/
  engine : Engine
  /-- What the host sends from now on, in the order of arrival (R58, R70). -/
  commandPort : List HostEvent
  /-- Every response emitted so far, oldest first (R58, R70, R210). -/
  responsePort : List Response
  deriving DecidableEq, Repr

/-- The reasons for the machine to stop with a fault: none. No one raises a fault: the hardware's errors are responses and
the core goes on (60_exceptions R180, R196). Nothing here can be unsafe, since nothing here can happen. -/
inductive Fault where
  deriving DecidableEq, Repr

/-- The reasons for the machine to give an instruction no meaning. -/
inductive Refusal where
  /-- Raised only by an arm of `exec` whose instruction has no meaning yet; in this model no arm does. Safe: the machine
  stops where the hardware goes on. -/
  | notModelled (mnemonic : String)
  deriving DecidableEq, Repr

/-- The engine after reset (10_state R33, 70_reset_and_hazards R200). -/
def Engine.reset : Engine :=
  { lanes := zeroLanes, stage := .noContext, mode := .sha3, sizeSel := .s224, pos := 0 }

/-- The machine right after reset: the engine's reset values, nothing sent yet and nothing answered yet (R200, R210). -/
def State.reset : State :=
  { engine := Engine.reset, commandPort := [], responsePort := [] }

/-- Replace the engine's state. -/
def State.setEngine (s : State) (e : Engine) : State := { s with engine := e }

/-- Replace what the host has still to send. -/
def State.setCommands (s : State) (q : List HostEvent) : State := { s with commandPort := q }

/-- Replace the responses emitted so far. -/
def State.setResponses (s : State) (rs : List Response) : State := { s with responsePort := rs }

/-- Replace the lane file. -/
def Engine.setLanes (e : Engine) (a : Lanes) : Engine := { e with lanes := a }

/-- Replace the lifecycle stage. -/
def Engine.setStage (e : Engine) (g : Stage) : Engine := { e with stage := g }

/-- Replace the byte position. -/
def Engine.setPos (e : Engine) (p : Nat) : Engine := { e with pos := p }

/-- The result of a command. -/
abbrev Result := Host.Outcome State Fault Refusal

end Sys2Proof.Machine
end

