-- ==== Sys2Proof/Machine/Flags.lean ====
section
/-! DEFINITION. The core has no flags register (spec 10_state R29): what a host can see of its condition is a response's
status code (30_encoding R81) and the status word, computed from the context registers (10_state R30). -/

namespace Sys2Proof.Machine

/-- The two-bit code of a stage (R20, R24). -/
def Stage.code : Stage → BitVec 2
  | .noContext => 0
  | .initialized => 1
  | .absorbing => 2
  | .finalized => 3

/-- The status byte of a response (R81). -/
def StatusCode.code : StatusCode → Byte
  | .ok => 0
  | .paramError => 1
  | .precondition => 2
  | .illegalCommand => 3

/-- The stages in which ABSORB and FINALIZE are allowed: {Initialized, Absorbing} (R131, R142). -/
def Stage.acceptsMessage : Stage → Bool
  | .noContext => false
  | .initialized => true
  | .absorbing => true
  | .finalized => false

/-- The status word (R30, R166): `stage | mode << 2 | sizeSel << 3`, and 0 while NoContext. -/
def statusWord (e : Engine) : Word :=
  if e.stage = .noContext then 0
  else e.stage.code.zeroExtend 32 ||| (e.mode.code.zeroExtend 32 <<< 2) ||| (e.sizeSel.code.zeroExtend 32 <<< 3)

end Sys2Proof.Machine
end

