-- ==== Sys2Proof/Machine/Operands.lean ====
section
/-! DEFINITION. What the commands' operands select: the sizes derived from the size selector (spec 00_scope R6, 10_state R25),
the selector of a requested size (43_api R160), the suffix of a mode (R8, 42_finalize R140) and ONESHOT's check (43_api R163).
Commands have no other operand form: no register, no memory operand, no immediate that is added (30_encoding R82). -/

namespace Sys2Proof

/-- `outputBits` (R25). -/
def SizeSel.outputBits : SizeSel → Nat
  | .s224 => 224
  | .s256 => 256
  | .s384 => 384
  | .s512 => 512

/-- `outputBytes = outputBits / 8` (R25). -/
def SizeSel.outputBytes (z : SizeSel) : Nat := z.outputBits / 8

/-- `capacityBytes = outputBits / 4` (R25). -/
def SizeSel.capacityBytes (z : SizeSel) : Nat := z.outputBits / 4

/-- `rateBytes = 200 - capacityBytes` (R25). -/
def SizeSel.rateBytes (z : SizeSel) : Nat := Config.stateBytes - z.capacityBytes

/-- The selector of a requested outputBits, or none where BITS ∉ {224, 256, 384, 512} (R160). -/
def sizeOfBits (bits : Half) : Option SizeSel :=
  if bits = 224 then some .s224
  else if bits = 256 then some .s256
  else if bits = 384 then some .s384
  else if bits = 512 then some .s512
  else none

/-- The padding suffix byte of a mode (R8, R140). -/
def Mode.suffix : Mode → Byte
  | .sha3 => 0x06
  | .legacyKeccak => 0x01

/-- ONESHOT's parameter check (R163), in the rule's order: unsupported BITS, then 224 where it is disallowed, then
`CAP > BITS / 8`. It gives the selected size, or none where a test fails. -/
def oneshotSize (p : Params) (bits cap : Half) : Option SizeSel :=
  match sizeOfBits bits with
  | none => none
  | some z =>
    if bits = 224 ∧ p.oneshot224 = false then none
    else if cap.toNat > bits.toNat / 8 then none
    else some z

end Sys2Proof
end

