-- ==== Sys2Proof/Machine/Permutation.lean ====
section
/-! DEFINITION. The Keccak-f[1600] permutation (spec 40_permutation R100 to R113). Lanes are read through `lane`, a step
mapping builds its 25 output lanes from the 25 input lanes, and only ι depends on the round. -/

namespace Sys2Proof.Machine

/-- `ROL64(v, n)`: rotate left by `n mod 64` (00_scope R11). -/
def rol64 (v : Lane) (n : Nat) : Lane :=
  if n % 64 = 0 then v else (v <<< (n % 64)) ||| (v >>> (64 - n % 64))

/-- Lane `A[i]` (00_scope R12). The lane file ends at 24; no operation reads past it. -/
def lane (a : Lanes) (i : Nat) : Lane := a.toList.getD i 0

/-- `A[x, y] = A[x + 5*y]`, with x and y taken mod 5 as the step mappings write them (00_scope R12). -/
def laneXY (a : Lanes) (x y : Nat) : Lane := lane a (x % 5 + 5 * (y % 5))

/-- The lanes whose lane (x, y) is `f x y`: "for x, y in 0..4". -/
def buildLanes (f : Nat → Nat → Lane) : Lanes :=
  ⟨((List.range 25).map fun i => f (i % 5) (i / 5)).toArray, by simp⟩

/-- `C[x]`, the parity of column x (R102). -/
def columnParity (a : Lanes) (x : Nat) : Lane :=
  laneXY a x 0 ^^^ laneXY a x 1 ^^^ laneXY a x 2 ^^^ laneXY a x 3 ^^^ laneXY a x 4

/-- `D[x] = C[(x-1) mod 5] ^ ROL64(C[(x+1) mod 5], 1)` (R102); x + 4 is x - 1 mod 5. -/
def thetaEffect (a : Lanes) (x : Nat) : Lane :=
  columnParity a (x + 4) ^^^ rol64 (columnParity a (x + 1)) 1

/-- θ (R102). -/
def theta (a : Lanes) : Lanes := buildLanes fun x y => laneXY a x y ^^^ thetaEffect a x

/-- The rho offsets by lane index x + 5y (R104). -/
def rhoTable : List Nat :=
  [0, 1, 62, 28, 27] ++ [36, 44, 6, 55, 20] ++ [3, 10, 43, 25, 39] ++ [41, 45, 15, 21, 8] ++ [18, 2, 61, 56, 14]

/-- `RHO[x, y]` (R104). -/
def rhoOffset (x y : Nat) : Nat := rhoTable.getD (x + 5 * y) 0

/-- ρ (R103). -/
def rho (a : Lanes) : Lanes := buildLanes fun x y => rol64 (laneXY a x y) (rhoOffset x y)

/-- π (R106): `A'[x, y] = A[(x + 3*y) mod 5, x]`. -/
def pi (a : Lanes) : Lanes := buildLanes fun x y => laneXY a (x + 3 * y) x

/-- χ (R107): every output of a row is computed from the row's five inputs. -/
def chi (a : Lanes) : Lanes :=
  buildLanes fun x y => laneXY a x y ^^^ (~~~(laneXY a (x + 1) y) &&& laneXY a (x + 2) y)

/-- The round constants `RC[0..23]` (R109). -/
def roundConstants : List Lane :=
  [0x0000000000000001, 0x0000000000008082, 0x800000000000808A, 0x8000000080008000,
   0x000000000000808B, 0x0000000080000001, 0x8000000080008081, 0x8000000000008009] ++
  [0x000000000000008A, 0x0000000000000088, 0x0000000080008009, 0x000000008000000A,
   0x000000008000808B, 0x800000000000008B, 0x8000000000008089, 0x8000000000008003] ++
  [0x8000000000008002, 0x8000000000000080, 0x000000000000800A, 0x800000008000000A,
   0x8000000080008081, 0x8000000000008080, 0x0000000080000001, 0x8000000080008008]

/-- `RC[ir]` (R109). -/
def roundConstant (ir : Nat) : Lane := roundConstants.getD ir 0

/-- ι (R108): only lane 0 changes. -/
def iota (a : Lanes) (ir : Nat) : Lanes := a.setIfInBounds 0 (lane a 0 ^^^ roundConstant ir)

/-- `Rnd(A, ir) = ι(χ(π(ρ(θ(A)))), ir)` (R101, R111). -/
def rnd (a : Lanes) (ir : Nat) : Lanes := iota (chi (pi (rho (theta a)))) ir

/-- `KeccakF(A)`: rounds 0 to 23 in increasing order (R112). -/
def keccakF (a : Lanes) : Lanes := (List.range Config.rounds).foldl rnd a

/-! ### The generating rules of the two tables -/

/-- The walk of R105: after t steps, the (x, y) whose offset the step t gives. -/
def rhoWalk : Nat → Nat × Nat
  | 0 => (1, 0)
  | t + 1 => ((rhoWalk t).2, (2 * (rhoWalk t).1 + 3 * (rhoWalk t).2) % 5)

/-- The lane index x + 5y of the walk's step t (R105). -/
def rhoWalkIndex (t : Nat) : Nat := (rhoWalk t).1 + 5 * (rhoWalk t).2

/-- The table R105 generates: offset 0 for lane 0, then `((t+1)(t+2)/2) mod 64` at the walk's step t. -/
def rhoGenerated : List Nat :=
  (List.range 24).foldl (fun tab t => tab.set (rhoWalkIndex t) ((t + 1) * (t + 2) / 2 % 64)) (List.replicate 25 0)

/-- One step of the 8-bit feedback register of R110: `R := [0] ++ R`, the bit that falls out added at 0, 4, 5 and 6. -/
def lfsrStep (r : BitVec 8) : BitVec 8 :=
  (r <<< 1) ^^^ (if r.getLsbD 7 then 0x71#8 else 0#8)

/-- `rc(t)` (R110): bit 0 of the register after `t mod 255` steps from `[1,0,0,0,0,0,0,0]`. -/
def rcBit (t : Nat) : Bool :=
  ((List.range (t % 255)).foldl (fun r _ => lfsrStep r) 1#8).getLsbD 0

/-- `RC[ir]` as R110 generates it: bit `2^j - 1` is `rc(j + 7*ir)` for j = 0..6. -/
def rcGenerated (ir : Nat) : Lane :=
  (List.range 7).foldl (fun acc j => if rcBit (j + 7 * ir) then acc ||| (1#64 <<< (2 ^ j - 1)) else acc) 0#64

/-! ### ρ then π as one in-place chain -/

/-- `ROTC` (R113). -/
def chainRotations : List Nat :=
  [1, 3, 6, 10, 15, 21, 28, 36, 45, 55, 2, 14] ++ [27, 41, 56, 8, 25, 43, 62, 18, 39, 61, 20, 44]

/-- `PILN` (R113). -/
def chainTargets : List Nat :=
  [10, 7, 11, 17, 18, 3, 5, 16, 8, 21, 24, 4] ++ [15, 23, 19, 13, 12, 2, 20, 14, 22, 9, 6, 1]

/-- One iteration of R113's loop on (A, t). -/
def chainStep (p : Lanes × Lane) (i : Nat) : Lanes × Lane :=
  let j := chainTargets.getD i 0
  (p.1.setIfInBounds j (rol64 p.2 (chainRotations.getD i 0)), lane p.1 j)

/-- The loop of R113, from `t := A[1]`. -/
def rhoPiChain (a : Lanes) : Lanes := ((List.range 24).foldl chainStep (a, lane a 1)).1

end Sys2Proof.Machine
end

