-- ==== Sys2Proof/Machine/Ops.lean ====
section
/-! DEFINITION. The shared operations: the little-endian byte view of the lanes (spec 20_memory R50, 00_scope R12), the
constructor, absorption, padding and finalization of a context, the one way to end a command (`respond`) and the one way to
report an error (`raise`, 60_exceptions R180), and the events of the host that are no commands. -/

namespace Sys2Proof.Machine

/-! ### The byte view -/

/-- `S[j] = A[j div 8][8*(j mod 8)+7 : 8*(j mod 8)]` (R50). -/
def stateByte (a : Lanes) (j : Nat) : Byte := (lane a (j / 8)).extractLsb' (8 * (j % 8)) 8

/-- `MemRead(j, n)` (R12). -/
def memRead (a : Lanes) (j n : Nat) : List Byte := (List.range n).map fun k => stateByte a (j + k)

/-- `MemXor(j, b)`: `A[j div 8] <- A[j div 8] ^ (zext_64(b) << 8*(j mod 8))` (R12). -/
def memXor (a : Lanes) (j : Nat) (b : Byte) : Lanes :=
  a.setIfInBounds (j / 8) (lane a (j / 8) ^^^ (b.zeroExtend 64 <<< (8 * (j % 8))))

/-! ### The context -/

/-- `construct(sel, m)`, the constructor body of INIT, INITF and ONESHOT: it writes every context register (43_api R161). -/
def Engine.construct (sel : SizeSel) (m : Mode) : Engine :=
  { lanes := zeroLanes, stage := .initialized, mode := m, sizeSel := sel, pos := 0 }

/-- `absorbByte(b)` (41_absorb R130): the permutation runs as soon as the block fills. -/
def Engine.absorbByte (e : Engine) (b : Byte) : Engine :=
  let mixed := memXor e.lanes e.pos b
  if e.pos + 1 = e.sizeSel.rateBytes then (e.setLanes (keccakF mixed)).setPos 0
  else (e.setLanes mixed).setPos (e.pos + 1)

/-- `for b in bytes: absorbByte(b)` (R131, R133). -/
def Engine.absorbBytes (e : Engine) (bytes : List Byte) : Engine := bytes.foldl Engine.absorbByte e

/-- The effect of an accepted ABSORB: the bytes, then `stage <- Absorbing` (R131). -/
def Engine.absorb (e : Engine) (bytes : List Byte) : Engine := (e.absorbBytes bytes).setStage .absorbing

/-- `pad()` (42_finalize R141): the suffix at the next unused byte, 0x80 at the last byte of the block. -/
def Engine.pad (e : Engine) : Engine :=
  e.setLanes (memXor (memXor e.lanes e.pos e.mode.suffix) (e.sizeSel.rateBytes - 1) 0x80)

/-- The effect of an accepted FINALIZE (R142): pad, permute once, `pos <- 0`, `stage <- Finalized`. -/
def Engine.finalize (e : Engine) : Engine :=
  ((e.pad.setLanes (keccakF e.pad.lanes)).setPos 0).setStage .finalized

/-- `MemRead(0, outputBytes)` (R144). -/
def Engine.digest (e : Engine) : List Byte := memRead e.lanes 0 e.sizeSel.outputBytes

/-- The effect of an accepted ONESHOT (R164), which reads no register of the context before it. -/
def Engine.hashed (sel : SizeSel) (m : Mode) (bytes : List Byte) : Engine :=
  ((Engine.construct sel m).absorb bytes).finalize

/-! ### Ending a command -/

/-- One more response on the response port (30_encoding R70, R80). -/
def State.emit (s : State) (r : Response) : State := s.setResponses (s.responsePort ++ [r])

/-- `respond(status, data)`: ends the command with one response (00_scope R13). -/
def respond (c : StatusCode) (data : List Byte) (s : State) : Result := .next (s.emit { status := c, data := data })

/-- `raise <Error>()`: the error's code and empty data, and no change to any state (R13, R180). The core has no other
exception: no vector, no saved state, no control transfer, and so no return from one (R188, R189). -/
def raise (c : StatusCode) (s : State) : Result := respond c [] s

/-- A command that succeeds with a new context state. -/
def complete (e : Engine) (data : List Byte) (s : State) : Result := respond .ok data (s.setEngine e)

/-! ### Events of the host -/

/-- A transaction that spells no command is consumed whole and answered ILLEGAL_COMMAND (R183). -/
def rejectTransaction (s : State) : Result := raise .illegalCommand s

/-- Reset (70_reset_and_hazards R200, R201): every register of the engine at its reset value; no response, neither for the
reset nor for a transaction it interrupts. Responses emitted before stay emitted. -/
def takeReset (s : State) : Result := .next (s.setEngine Engine.reset)

/-- No transaction waits: the core is idle and keeps all its state (60_exceptions R195, R207). -/
def idle (s : State) : Result := .next s

/-- A transaction is decoded, and then the command is run by `run` or the whole is rejected (30_encoding R84, R85). -/
def runTransaction (run : Instr → State → Result) (ws : Transaction) (s : State) : Result :=
  match decode ws with
  | .cmd i => run i s
  | .illegal _ => rejectTransaction s

/-- The core takes the next event of its host and handles it whole (20_memory R57, R58), its commands run by `run`. -/
def takeEvent (run : Instr → State → Result) (s : State) : Result :=
  match s.commandPort with
  | [] => idle s
  | .transaction ws :: rest => runTransaction run ws (s.setCommands rest)
  | .reset _ :: rest => takeReset (s.setCommands rest)

end Sys2Proof.Machine
end

