-- ==== Sys2Proof/Machine/Absorb.lean ====
section
/-! DEFINITION. ABSORB (spec 41_absorb R131). -/

namespace Sys2Proof.Machine

/-- ABSORB (R131): outside {Initialized, Absorbing} PRECONDITION, and the payload is discarded. -/
def execAbsorb (bytes : List Byte) (s : State) : Result :=
  if s.engine.stage.acceptsMessage then complete (s.engine.absorb bytes) [] s
  else raise .precondition s

end Sys2Proof.Machine
end

