-- ==== Sys2Proof/Machine/Api.lean ====
section
/-! DEFINITION. ONESHOT and STATUS (spec 43_api R164, R166). -/

namespace Sys2Proof.Machine

/-- ONESHOT (R163, R164) with the parameters as an argument (00_scope R9). -/
def oneshotWith (p : Params) (m : Mode) (bits cap : Half) (bytes : List Byte) (s : State) : Result :=
  match oneshotSize p bits cap with
  | none => raise .paramError s
  | some z => complete (Engine.hashed z m bytes) (memRead (Engine.hashed z m bytes).lanes 0 cap.toNat) s

/-- ONESHOT of this machine: the spec's default parameters. -/
def execOneshot (m : Mode) (bits cap : Half) (bytes : List Byte) (s : State) : Result :=
  oneshotWith Config.params m bits cap bytes s

/-- STATUS (R166): the status word, least significant byte first. -/
def execStatus (s : State) : Result := respond .ok (wordBytes (statusWord s.engine)) s

end Sys2Proof.Machine
end

