-- ==== Sys2Proof/Machine/Construct.lean ====
section
/-! DEFINITION. The commands that construct a context: INIT (spec 43_api R160) and INITF (R162). -/

namespace Sys2Proof.Machine

/-- INIT (R160): an unsupported size answers PARAM_ERROR before any state is touched. -/
def execInit (m : Mode) (bits : Half) (s : State) : Result :=
  match sizeOfBits bits with
  | none => raise .paramError s
  | some z => complete (Engine.construct z m) [] s

/-- INITF (R162): it cannot fail. -/
def execInitf (m : Mode) (sz : SizeSel) (s : State) : Result :=
  complete (Engine.construct sz m) [] s

end Sys2Proof.Machine
end

