-- ==== Sys2Proof/Machine/Finalize.lean ====
section
/-! DEFINITION. FINALIZE and the digest read-out RDDIG (spec 42_finalize R142, R146). -/

namespace Sys2Proof.Machine

/-- FINALIZE (R142). -/
def execFinalize (s : State) : Result :=
  if s.engine.stage.acceptsMessage then complete s.engine.finalize s.engine.finalize.digest s
  else raise .precondition s

/-- RDDIG (R146): the stage is tested before the index (60_exceptions R185). -/
def execRddig (idx : Byte) (s : State) : Result :=
  if s.engine.stage = .finalized then
    if idx.toNat < s.engine.sizeSel.outputBytes then respond .ok [stateByte s.engine.lanes idx.toNat] s
    else raise .paramError s
  else raise .precondition s

end Sys2Proof.Machine
end

