-- ==== Sys2Proof/Machine/Dispatch.lean ====
section
/-! DEFINITION. One arm per command (spec 30_encoding R89). -/

namespace Sys2Proof.Machine

def exec (i : Instr) (s : State) : Host.Outcome State Fault Refusal :=
  match i with
  | .init m bits => Sys2Proof.Machine.execInit m bits s
  | .initf m sz => Sys2Proof.Machine.execInitf m sz s
  | .absorb bytes => Sys2Proof.Machine.execAbsorb bytes s
  | .finalize => Sys2Proof.Machine.execFinalize s
  | .oneshot m bits cap bytes => Sys2Proof.Machine.execOneshot m bits cap bytes s
  | .rddig idx => Sys2Proof.Machine.execRddig idx s
  | .status => Sys2Proof.Machine.execStatus s

end Sys2Proof.Machine
end

