-- ==== Sys2Proof/Machine/Step.lean ====
section
/-! DEFINITION. One step: the core takes the next event of its host and handles it whole (spec 20_memory R57, R58). -/

namespace Sys2Proof.Machine

/-- One step of the machine, with the spec's default parameters. With nothing on the command port it is idle (R195). -/
def step (s : State) : Host.Outcome State Fault Refusal := takeEvent exec s

/-- `s` with one transaction put first on the command port, so that the very next step runs it. -/
def State.withFetchWord (s : State) (nbits w : Nat) : State :=
  s.setCommands (.transaction (tableTransaction nbits w) :: s.commandPort)

end Sys2Proof.Machine
end

