-- ==== Sys2Proof/Machine/Assembler.lean ====
section
/-! DEFINITION. The spec's assembler syntax and its pseudo-instructions (spec 30_encoding R87, R88). It is a notation of
hosts and test programs: the core never sees it. -/

namespace Sys2Proof.Machine

/-- A source line: a command with operands as they are written, or a pseudo-instruction. -/
inductive AsmLine where
  | init (bits : Nat) (m : Mode)
  | initf (size : Nat) (m : Mode)
  | absorb (bytes : List Byte)
  | finalize
  | oneshot (bits : Nat) (m : Mode) (cap : Nat) (bytes : List Byte)
  | rddig (idx : Nat)
  | status
  /-- `SHA3_<size>` and `KECCAK_<size>` (R88). -/
  | context (sz : SizeSel) (m : Mode)
  /-- `ABSORBL <bytes>`, of any length (R88). -/
  | absorbl (bytes : List Byte)
  /-- `HASH <bits>, <mode>, <bytes>` (R88). -/
  | hash (bits : Nat) (m : Mode) (bytes : List Byte)
  deriving DecidableEq, Repr

/-- The sizes INITF names (R87). -/
def sizeOfNat (n : Nat) : Option SizeSel :=
  if n = 224 then some .s224
  else if n = 256 then some .s256
  else if n = 384 then some .s384
  else if n = 512 then some .s512
  else none

/-- The pieces of ABSORBL: 65535 bytes each, the remainder last; one empty piece for an empty list (R88). -/
def absorbPieces (bytes : List Byte) : List (List Byte) :=
  (List.range (max 1 ((bytes.length + (Config.maxAbsorb - 1)) / Config.maxAbsorb))).map fun k =>
    (bytes.drop (k * Config.maxAbsorb)).take Config.maxAbsorb

/-- A value in 0..65535 as a 16-bit field; any other is an assembly error (R87). -/
def halfOperand (n : Nat) : Option Half := if n < 65536 then some (BitVec.ofNat 16 n) else none

/-- The ONESHOT of four operands in range (R87). -/
def assembleOneshot (bits : Nat) (m : Mode) (cap : Nat) (bytes : List Byte) : Option (List Instr) :=
  match halfOperand bits, halfOperand cap with
  | some b, some c => if payloadFits bytes then some [.oneshot m b c bytes] else none
  | _, _ => none

/-- The commands of a line (R87, R88), or none where an operand is out of its field's range. -/
def assembleLine : AsmLine → Option (List Instr)
  | .init bits m => (halfOperand bits).map fun b => [.init m b]
  | .initf size m => (sizeOfNat size).map fun z => [.initf m z]
  | .absorb bytes => if payloadFits bytes then some [.absorb bytes] else none
  | .finalize => some [.finalize]
  | .oneshot bits m cap bytes => assembleOneshot bits m cap bytes
  | .rddig idx => if idx < 256 then some [.rddig (BitVec.ofNat 8 idx)] else none
  | .status => some [.status]
  | .context sz m => some [.initf m sz]
  | .absorbl bytes => some ((absorbPieces bytes).map Instr.absorb)
  | .hash bits m bytes => assembleOneshot bits m (bits / 8) bytes

/-! ### The written form -/

/-- A token of a line. -/
inductive Token where
  | word (cs : List Char)
  | text (cs : List Char)
  | comma
  | lparen
  | rparen
  deriving DecidableEq, Repr

/-- Where the scanner stands: between tokens, in a word, or in a quoted string (read so far, in reverse). -/
inductive ScanMode where
  | gap
  | word (rev : List Char)
  | text (rev : List Char)
  deriving DecidableEq, Repr

/-- The double quote. -/
def quoteChar : Char := Char.ofNat 34

/-- The tokens a character ends and begins, outside a quoted string: what it adds and where the scanner stands then. -/
def scanPlain (c : Char) : Option (List Token × ScanMode) :=
  if c = ' ' ∨ c = Char.ofNat 9 then some ([], .gap)
  else if c = ',' then some ([.comma], .gap)
  else if c = '(' then some ([.lparen], .gap)
  else if c = ')' then some ([.rparen], .gap)
  else if c = quoteChar then some ([], .text [])
  else if c.isAlphanum ∨ c = '_' then some ([], .word [c])
  else none

/-- The tokens of a line; `;` starts a comment (R87). -/
def scan : ScanMode → List Char → Option (List Token)
  | .gap, [] => some []
  | .word r, [] => some [.word r.reverse]
  | .text _, [] => none
  | .text r, c :: cs =>
    if c = quoteChar then (scan .gap cs).map (Token.text r.reverse :: ·) else scan (.text (c :: r)) cs
  | .gap, c :: cs =>
    if c = ';' then some []
    else match scanPlain c with
      | none => none
      | some (ts, next) => (scan next cs).map (ts ++ ·)
  | .word r, c :: cs =>
    if c = ';' then some [.word r.reverse]
    else if c.isAlphanum ∨ c = '_' then scan (.word (c :: r)) cs
    else match scanPlain c with
      | none => none
      | some (ts, next) => (scan next cs).map (Token.word r.reverse :: ts ++ ·)

/-- The value of a digit in a base, if it is one. -/
def digitValue (base : Nat) (c : Char) : Option Nat :=
  let n := c.toNat
  let v := if 48 ≤ n ∧ n ≤ 57 then n - 48 else if 65 ≤ n ∧ n ≤ 70 then n - 55 else if 97 ≤ n ∧ n ≤ 102 then n - 87 else base
  if v < base then some v else none

/-- Digits read left to right after a value. -/
def readDigits (base : Nat) : Nat → List Char → Option Nat
  | acc, [] => some acc
  | acc, c :: cs =>
    match digitValue base c with
    | none => none
    | some v => readDigits base (acc * base + v) cs

/-- A number: hexadecimal after `0x`, else decimal (00_scope R10, R87). -/
def readNumber : List Char → Option Nat
  | [] => none
  | '0' :: 'x' :: c :: cs => readDigits 16 0 (c :: cs)
  | c :: cs => readDigits 10 0 (c :: cs)

/-- A byte value (R87). -/
def readByte (cs : List Char) : Option Byte :=
  match readNumber cs with
  | none => none
  | some n => if n < 256 then some (BitVec.ofNat 8 n) else none

/-- A comma-separated list of byte values (R87). -/
def readByteList : List Token → Option (List Byte)
  | [.word w] => (readByte w).map fun b => [b]
  | .word w :: .comma :: rest =>
    match readByte w, readByteList rest with
    | some b, some bs => some (b :: bs)
    | _, _ => none
  | _ => none

/-- The bytes of a quoted ASCII string (R87). -/
def asciiBytes : List Char → Option (List Byte)
  | [] => some []
  | c :: cs =>
    if c.toNat < 128 then (asciiBytes cs).map (BitVec.ofNat 8 c.toNat :: ·) else none

/-- `pat(n)`: the n bytes `k mod 256` (R87). -/
def patBytes (n : Nat) : List Byte := (List.range n).map fun k => BitVec.ofNat 8 k

/-- `<bytes>`: nothing, a quoted string, `pat(n)`, or a list of byte values (R87). -/
def readBytes : List Token → Option (List Byte)
  | [] => some []
  | [.text t] => asciiBytes t
  | [.word f, .lparen, .word n, .rparen] => if f = ['p', 'a', 't'] then (readNumber n).map patBytes else none
  | ts => readByteList ts

/-- `<bytes>` after the operand before it, where an empty list may leave out the comma. -/
def readBytesAfter : List Token → Option (List Byte)
  | [] => some []
  | .comma :: ts => readBytes ts
  | _ => none

/-- `<mode>`, if the word is one: `SHA3` or `KECCAK` (R87). -/
def readMode (w : List Char) : Option Mode :=
  if w = ['S', 'H', 'A', '3'] then some .sha3
  else if w = ['K', 'E', 'C', 'C', 'A', 'K'] then some .legacyKeccak
  else none

/-- An optional `, <mode>`, SHA3 when omitted (R87), and the tokens after it. -/
def takeMode : List Token → Mode × List Token
  | .comma :: .word w :: rest =>
    match readMode w with
    | some m => (m, rest)
    | none => (.sha3, .comma :: .word w :: rest)
  | ts => (.sha3, ts)

/-- `<number>[, <mode>]` and nothing else. -/
def readSized (mk : Nat → Mode → AsmLine) : List Token → Option AsmLine
  | .word n :: rest =>
    match readNumber n, takeMode rest with
    | some k, (m, []) => some (mk k m)
    | _, _ => none
  | _ => none

/-- `<bits>[, <mode>], <cap>, <bytes>` (R87). -/
def readOneshot : List Token → Option AsmLine
  | .word n :: rest =>
    match readNumber n, takeMode rest with
    | some k, (m, .comma :: .word c :: more) =>
      match readNumber c, readBytesAfter more with
      | some cap, some bytes => some (.oneshot k m cap bytes)
      | _, _ => none
    | _, _ => none
  | _ => none

/-- `<bits>[, <mode>], <bytes>` (R88). -/
def readHash : List Token → Option AsmLine
  | .word n :: rest =>
    match readNumber n, takeMode rest with
    | some k, (m, more) => (readBytesAfter more).map (AsmLine.hash k m)
    | _, _ => none
  | _ => none

/-- A line without operands. -/
def readPlain (l : AsmLine) : List Token → Option AsmLine
  | [] => some l
  | _ => none

/-- `<idx>` (R87). -/
def readRddig : List Token → Option AsmLine
  | [.word n] => (readNumber n).map AsmLine.rddig
  | _ => none

/-- The mnemonics and pseudo-instruction names (R87, R88), each with the reader of its operands. -/
def asmReaders : List (List Char × (List Token → Option AsmLine)) :=
  [ ("INIT".toList, readSized .init), ("INITF".toList, readSized .initf),
    ("ABSORB".toList, fun ts => (readBytes ts).map .absorb), ("FINALIZE".toList, readPlain .finalize),
    ("ONESHOT".toList, readOneshot), ("RDDIG".toList, readRddig), ("STATUS".toList, readPlain .status) ] ++
  [ ("SHA3_224".toList, readPlain (.context .s224 .sha3)), ("SHA3_256".toList, readPlain (.context .s256 .sha3)),
    ("SHA3_384".toList, readPlain (.context .s384 .sha3)), ("SHA3_512".toList, readPlain (.context .s512 .sha3)) ] ++
  [ ("KECCAK_224".toList, readPlain (.context .s224 .legacyKeccak)),
    ("KECCAK_256".toList, readPlain (.context .s256 .legacyKeccak)),
    ("KECCAK_384".toList, readPlain (.context .s384 .legacyKeccak)),
    ("KECCAK_512".toList, readPlain (.context .s512 .legacyKeccak)) ] ++
  [ ("ABSORBL".toList, fun ts => (readBytes ts).map .absorbl), ("HASH".toList, readHash) ]

/-- The reader of a mnemonic. -/
def findReader (w : List Char) : List (List Char × (List Token → Option AsmLine)) → Option (List Token → Option AsmLine)
  | [] => none
  | (name, f) :: rest => if w = name then some f else findReader w rest

/-- A written line as commands: none where it is no line of the syntax or an operand is out of range; an empty line or a
comment is no command (R87). -/
def assemble (line : List Char) : Option (List Instr) :=
  match scan .gap line with
  | some [] => some []
  | some (.word w :: ts) =>
    match findReader w asmReaders with
    | none => none
    | some f => (f ts).bind assembleLine
  | _ => none

end Sys2Proof.Machine
end

