-- ==== Sys2Proof/Machine/System.lean ====
section
/-! DEFINITION. Runs of commands; the machine with the parameters of R9 as arguments; and a system of NUM_INSTANCES independent
instances that share no state (spec 00_scope R9, 20_memory R62, 60_exceptions R193, 70_reset_and_hazards R200, R210). -/

namespace Sys2Proof.Machine

/-- Commands executed one after the other, each complete before the next begins (R58). -/
def runCommands : List Instr → State → Result
  | [], s => .next s
  | i :: rest, s =>
    match exec i s with
    | .next t => runCommands rest t
    | .fault r => .fault r
    | .refused r => .refused r

/-- A run of n steps, stopping at the first fault or refusal (R210). -/
def runSteps (n : Nat) (s : State) : Result := Host.Core.run Sys2Proof.core n s

/-- Is this event a transaction, which is owed one response (R70)? -/
def HostEvent.isTransaction : HostEvent → Bool
  | .transaction _ => true
  | .reset _ => false

/-! ### Any parameters -/

/-- A command on a core built with the parameters p (R9): ONESHOT_224 reaches ONESHOT alone (R181). `exec` is the same with the
spec's defaults. -/
def execWith (p : Params) (i : Instr) (s : State) : Result :=
  match i with
  | .init m bits => execInit m bits s
  | .initf m sz => execInitf m sz s
  | .absorb bytes => execAbsorb bytes s
  | .finalize => execFinalize s
  | .oneshot m bits cap bytes => oneshotWith p m bits cap bytes s
  | .rddig idx => execRddig idx s
  | .status => execStatus s

/-- One step of a core built with the parameters p (R9, R21). -/
def stepWith (p : Params) (s : State) : Result := takeEvent (execWith p) s

/-- A core built with the parameters p, which are fixed for its runs (R21). -/
def coreWith (p : Params) : Host.Core :=
  { State := State, Fault := Fault, Refusal := Refusal, step := stepWith p, reset := State.reset }

/-- A run of n steps of a core built with the parameters p. -/
def runStepsWith (p : Params) (n : Nat) (s : State) : Result := Host.Core.run (coreWith p) n s

/-! ### Several instances -/

/-- A system: the parameters it is built with, and its instances, each with its own state and its own ports (R9, R62). -/
structure System where
  params : Params
  instances : List State
  deriving DecidableEq, Repr

/-- A system holds NUM_INSTANCES instances, and so at least one (R9, R62). -/
abbrev System.Wf (sys : System) : Prop := sys.instances.length = sys.params.numInstances

/-- Each instance starts in its reset state (R193). -/
def systemReset (p : Params) : System :=
  { params := p, instances := List.replicate p.numInstances State.reset }

/-- Instance k takes one step under the system's parameters; the others are not touched (R62). Where there is no instance k,
nothing happens (DESIGN CHOICE, notes/assumptions/1.md). A reset event taken here is one asserted to instance k alone
(DESIGN CHOICE, notes/assumptions/18.md). -/
def systemStep (k : Nat) (sys : System) : Host.Outcome System Fault Refusal :=
  match sys.instances[k]? with
  | none => .next sys
  | some s =>
    match stepWith sys.params s with
    | .next t => .next { sys with instances := sys.instances.set k t }
    | .fault r => .fault r
    | .refused r => .refused r

/-- Reset asserted to the whole system between commands: it puts every instance into the reset state (R200). What is on the
ports stays, as in a reset of one instance (DESIGN CHOICE and DEDUCED, notes/assumptions/18.md and 4.md). -/
def systemAssertReset (sys : System) : System :=
  { sys with instances := sys.instances.map fun s => s.setEngine Engine.reset }

end Sys2Proof.Machine
end

