-- ==== Sys2Proof/Machine/Views.lean ====
section
/-! DEFINITION. The spec's other views of the same computation, as functions of their own: the block view of absorption
(spec 41_absorb R135), the padded message and the sponge over its blocks (42_finalize R141, R144, R147), the lane-at-a-time
absorption of aligned input (20_memory R56) and the count of permutations (R132). No command uses them: the statements
hold them against the byte-at-a-time operations that the commands do use. -/

namespace Sys2Proof.Machine

/-- Eight bytes or fewer as a lane, the first least significant: `b0 | b1 << 8 | … | b7 << 56` (R50, R56). -/
def laneOfBytes (bs : List Byte) : Lane := bs.foldr (fun b acc => b.zeroExtend 64 ||| (acc <<< 8)) 0

/-- `lanes(bs)`: 200 bytes as 25 little-endian lanes (R135). -/
def lanesOfBytes (bs : List Byte) : Lanes :=
  ⟨((List.range 25).map fun i => laneOfBytes ((bs.drop (8 * i)).take 8)).toArray, by simp⟩

/-- `A ^ B`, lane by lane (R135). -/
def xorLanes (a b : Lanes) : Lanes := Vector.zipWith (fun v w => v ^^^ w) a b

/-- A block as a state: `lanes(bs ++ zeros(200 - len(bs)))` (R135). -/
def blockLanes (bs : List Byte) : Lanes := lanesOfBytes (bs ++ List.replicate (Config.stateBytes - bs.length) 0)

/-- Block k of a byte sequence, in blocks of `rate` bytes (R135). -/
def blockAt (rate : Nat) (bs : List Byte) (k : Nat) : List Byte := (bs.drop (k * rate)).take rate

/-- `for each block Bk: A := KeccakF(A ^ lanes(Bk ++ zeros))`, from `A := 0`, over the full blocks of bs (R135). -/
def absorbBlocks (rate : Nat) (bs : List Byte) : Lanes :=
  (List.range (bs.length / rate)).foldl (fun a k => keccakF (xorLanes a (blockLanes (blockAt rate bs k)))) zeroLanes

/-- The remaining `len(M) mod rateBytes` bytes (R135). -/
def remainder (rate : Nat) (bs : List Byte) : List Byte := bs.drop (bs.length / rate * rate)

/-- The state after absorbing M in the block view (R135). -/
def blockView (rate : Nat) (bs : List Byte) : Lanes :=
  xorLanes (absorbBlocks rate bs) (blockLanes (remainder rate bs))

/-- The pad bytes of the multi-rate padding after q bytes of an unfinished block (R141): `suffix | 0x80` where one byte is
left, else the suffix, zeros and 0x80. -/
def padBytes (rate q : Nat) (m : Mode) : List Byte :=
  if q + 1 = rate then [m.suffix ||| 0x80] else m.suffix :: (List.replicate (rate - q - 2) 0 ++ [0x80])

/-- The padded message, a whole number of blocks (R141; the glossary's pad10*1). -/
def paddedMessage (rate : Nat) (m : Mode) (msg : List Byte) : List Byte := msg ++ padBytes rate (msg.length % rate) m

/-- The digest as a sponge over the padded message: absorb its blocks, then squeeze once (R144, R147). -/
def spongeDigest (sel : SizeSel) (m : Mode) (msg : List Byte) : List Byte :=
  memRead (absorbBlocks sel.rateBytes (paddedMessage sel.rateBytes m msg)) 0 sel.outputBytes

/-- `Digest(bits, mode, M)` in the rule's own steps (R147). -/
def digestOf (sel : SizeSel) (m : Mode) (msg : List Byte) : List Byte := (Engine.hashed sel m msg).digest

/-- Eight bytes absorbed as one lane operation at an aligned position, with the permutation at the same point (R56). -/
def Engine.absorbLane (e : Engine) (bs : List Byte) : Engine :=
  let mixed := e.lanes.setIfInBounds (e.pos / 8) (lane e.lanes (e.pos / 8) ^^^ laneOfBytes bs)
  if e.pos + 8 = e.sizeSel.rateBytes then (e.setLanes (keccakF mixed)).setPos 0
  else (e.setLanes mixed).setPos (e.pos + 8)

/-- `absorbByte` beside a count of the permutations it runs (R132). -/
def absorbCounted (p : Engine × Nat) (b : Byte) : Engine × Nat :=
  (p.1.absorbByte b, if p.1.pos + 1 = p.1.sizeSel.rateBytes then p.2 + 1 else p.2)

/-- How many permutations an absorption of these bytes runs (R132). -/
def Engine.permutations (e : Engine) (bytes : List Byte) : Nat := (bytes.foldl absorbCounted (e, 0)).2

/-- The table of the complete state machine (43_api R170): the status code of a command and the stage after it, or none
where nothing changes. -/
def lifecycleCell (i : Instr) (e : Engine) : Byte × Option Stage :=
  match i with
  | .init _ bits => if bits ∈ [224, 256, 384, 512] then (0, some .initialized) else (1, none)
  | .initf _ _ => (0, some .initialized)
  | .absorb _ => if e.stage ∈ [.initialized, .absorbing] then (0, some .absorbing) else (2, none)
  | .finalize => if e.stage ∈ [.initialized, .absorbing] then (0, some .finalized) else (2, none)
  | .oneshot _ bits cap _ =>
    if bits ∈ [224, 256, 384, 512] ∧ cap.toNat ≤ bits.toNat / 8 then (0, some .finalized) else (1, none)
  | .rddig idx =>
    if e.stage ≠ .finalized then (2, none) else if idx.toNat < e.sizeSel.outputBytes then (0, none) else (1, none)
  | .status => (0, none)

/-- A command that constructs a context when it succeeds (R167). -/
def constructs : Instr → Bool
  | .init _ _ => true
  | .initf _ _ => true
  | .oneshot _ _ _ _ => true
  | .absorb _ => false
  | .finalize => false
  | .rddig _ => false
  | .status => false

end Sys2Proof.Machine
end

