-- ==== Sys2Proof/Safety.lean ====
section
/-! DEFINITION. What counts as a safe run, in the terms the statements use: the invariants of a reachable context
(spec 10_state R34, R35), an outcome that is a next state (60_exceptions R196), and a run in which every response is OK
(R196: the premise of a claim about a digest). -/

namespace Sys2Proof.Machine

/-- R34 and R35: `pos < rateBytes(sizeSel)`; an Initialized context is all zero at position 0; a Finalized one is at position 0. -/
abbrev Engine.Inv (e : Engine) : Prop :=
  e.pos < e.sizeSel.rateBytes ∧
  (e.stage = .initialized → e.lanes = zeroLanes ∧ e.pos = 0) ∧
  (e.stage = .finalized → e.pos = 0)

/-- The invariant of the machine. -/
abbrev State.Inv (s : State) : Prop := s.engine.Inv

/-- The machine goes on. -/
def Continues (r : Result) : Prop := ∃ t, r = .next t

/-- Every response from index n on is OK (R196). -/
def AllOkFrom (n : Nat) (s : State) : Prop := ∀ r ∈ s.responsePort.drop n, r.status = .ok

/-- Two states a host cannot tell apart while no context exists: the same stage and ports, and the same registers unless
the stage is NoContext (R33). -/
def SameButUnobserved (s t : State) : Prop :=
  s.commandPort = t.commandPort ∧ s.responsePort = t.responsePort ∧ s.engine.stage = t.engine.stage ∧
  (s.engine.stage ≠ .noContext → s.engine = t.engine)

/-- Two states that agree on everything a host may read of a finalized context: they are equal, or both are Finalized, with
the same ports, mode, size and digest bytes (R31, R53). The capacity bytes and the rate bytes past the digest may differ. -/
def SameVisible (s t : State) : Prop :=
  s = t ∨
  (s.commandPort = t.commandPort ∧ s.responsePort = t.responsePort ∧
   s.engine.stage = .finalized ∧ t.engine.stage = .finalized ∧
   s.engine.mode = t.engine.mode ∧ s.engine.sizeSel = t.engine.sizeSel ∧
   s.engine.digest = t.engine.digest)

end Sys2Proof.Machine
end

