-- ==== Sys2Proof/Certificates/Slice0/Obligations.lean ====
section
/-! DEFINITION. The statements for the provers, from the numbered rules of spec/: the encoding, the byte view, the
permutation, absorption and padding, each command's result, the errors, reset, the invariants and whole runs. -/

open Sys2Proof
open Sys2Proof.Machine

/-! ### Encoding -/

/-- R84, R73 to R79, R83: decoding the encoding of a well-formed command gives the command, every operand at every value. -/
def Obligations.DecodeOfEncodeIsTheCommand : Prop :=
  ∀ i : Instr, i.wellFormed = true → decode (encode i) = .cmd i

/-- R84, R83, R85: a transaction that decodes to i has i's word count and header words, and its payload words carry i's
payload bytes; so it is `encode i` but for the ignored bytes of its last word. -/
def Obligations.DecodedTransactionIsTheEncoding : Prop :=
  ∀ (ws : Transaction) (i : Instr), decode ws = .cmd i →
    i.wellFormed = true ∧ ws.length = i.wordCount ∧
    ws.take i.headerWords = (encode i).take i.headerWords ∧
    unpack (ws.drop i.headerWords) i.payload.length = i.payload

/-- opcode_table.json, R71, R72: a transaction decodes to a command exactly when a row of the table accepts it, and then to
a command of that row's mnemonic. -/
def Obligations.DecodeAcceptsExactlyTheOpcodeTable : Prop :=
  (∀ (ws : Transaction) (i : Instr), decode ws = .cmd i →
    ∃ r ∈ opcodeTable, r.mnemonic = i.mnemonic ∧ r.accepts ws = true) ∧
  (∀ (ws : Transaction) (r : OpcodeRow), r ∈ opcodeTable → r.accepts ws = true →
    ∃ i : Instr, decode ws = .cmd i ∧ i.mnemonic = r.mnemonic)

/-- R85, R183: the five kinds of illegal transaction are exactly those that decode to no command; the core consumes such a
transaction whole, answers ILLEGAL_COMMAND with no data and changes no register. -/
def Obligations.IllegalTransactionIsRejectedWhole : Prop :=
  (∀ ws : Transaction, illegalForm ws = true ↔ ∃ e, decode ws = .illegal e) ∧
  (∀ (s : Sys2Proof.Machine.State) (ws : Transaction) (rest : List HostEvent),
    s.commandPort = .transaction ws :: rest → illegalForm ws = true →
    step s = .next { engine := s.engine, commandPort := rest,
                     responsePort := s.responsePort ++ [{ status := .illegalCommand, data := [] }] })

/-- R83: payload byte k is bits 8*(k mod 4)+7 down to 8*(k mod 4) of payload word k div 4, and bytes at N and above do not matter. -/
def Obligations.PayloadBytesAreLittleEndian : Prop :=
  (∀ (ps : List Word) (n : Nat), n ≤ 4 * ps.length →
    (unpack ps n).length = n ∧
    ∀ k, k < n → (unpack ps n)[k]? = some ((ps.getD (k / 4) 0).extractLsb' (8 * (k % 4)) 8)) ∧
  (∀ (ps qs : List Word) (n : Nat), n ≤ 4 * ps.length → n ≤ 4 * qs.length →
    (∀ k, k < n →
      (ps.getD (k / 4) 0).extractLsb' (8 * (k % 4)) 8 = (qs.getD (k / 4) 0).extractLsb' (8 * (k % 4)) 8) →
    unpack ps n = unpack qs n)

/-- R73 to R79: one written-out word of each command decodes to it (a sanity statement). -/
def Obligations.WrittenWordsDecode : Prop :=
  decode [0x100101F4#32] = .cmd (.init .legacyKeccak 500) ∧
  decode [0x20010003#32] = .cmd (.initf .legacyKeccak .s512) ∧
  decode [0x30000005#32, 0x64636261#32, 0xFFFFFF65#32] = .cmd (.absorb [0x61, 0x62, 0x63, 0x64, 0x65]) ∧
  decode [0x40000000#32] = .cmd .finalize ∧
  decode [0x50000100#32, 0x00100003#32, 0x00636261#32] = .cmd (.oneshot .sha3 256 16 [0x61, 0x62, 0x63]) ∧
  decode [0x600000C8#32] = .cmd (.rddig 200) ∧
  decode [0x70000000#32] = .cmd .status

/-! ### The byte view -/

/-- R50: S[j] is bits 8*(j mod 8)+7 down to 8*(j mod 8) of lane j div 8, and a lane is its eight bytes with the first least
significant. -/
def Obligations.ByteViewIsLittleEndian : Prop :=
  ∀ a : Lanes,
    (∀ j k, j < 200 → k < 8 → (stateByte a j).getLsbD k = (lane a (j / 8)).getLsbD (8 * (j % 8) + k)) ∧
    (∀ i, i < 25 → lane a i = laneOfBytes (memRead a (8 * i) 8))

/-- R12 (MemXor): XORing a byte into S[j] changes S[j] by that byte and no other byte of the state. -/
def Obligations.MemXorChangesOneByte : Prop :=
  ∀ (a : Lanes) (j k : Nat) (b : Byte), j < 200 → k < 200 →
    stateByte (memXor a j b) k = if k = j then stateByte a j ^^^ b else stateByte a k

/-- R6, R7: the four rows of the size table and the invariants on them. R7 marks its last two facts, that a rate is a multiple of 8 and
an output at most 64 bytes, as derived. -/
def Obligations.SizeTableAndItsInvariants : Prop :=
  (SizeSel.s224.code = 0 ∧ SizeSel.s224.outputBits = 224 ∧ SizeSel.s224.outputBytes = 28 ∧
    SizeSel.s224.capacityBytes = 56 ∧ SizeSel.s224.rateBytes = 144 ∧ SizeSel.s224.rateBytes / 8 = 18) ∧
  (SizeSel.s256.code = 1 ∧ SizeSel.s256.outputBits = 256 ∧ SizeSel.s256.outputBytes = 32 ∧
    SizeSel.s256.capacityBytes = 64 ∧ SizeSel.s256.rateBytes = 136 ∧ SizeSel.s256.rateBytes / 8 = 17) ∧
  (SizeSel.s384.code = 2 ∧ SizeSel.s384.outputBits = 384 ∧ SizeSel.s384.outputBytes = 48 ∧
    SizeSel.s384.capacityBytes = 96 ∧ SizeSel.s384.rateBytes = 104 ∧ SizeSel.s384.rateBytes / 8 = 13) ∧
  (SizeSel.s512.code = 3 ∧ SizeSel.s512.outputBits = 512 ∧ SizeSel.s512.outputBytes = 64 ∧
    SizeSel.s512.capacityBytes = 128 ∧ SizeSel.s512.rateBytes = 72 ∧ SizeSel.s512.rateBytes / 8 = 9) ∧
  (∀ z : SizeSel, z.rateBytes + z.capacityBytes = 200 ∧ z.capacityBytes = 2 * z.outputBytes ∧
    z.outputBytes ≤ z.rateBytes ∧ z.rateBytes % 8 = 0 ∧ z.outputBytes ≤ 64)

/-! ### The permutation -/

/-- R105, R110: the rho table and the round constants are what their generating rules give, and only bits 0, 1, 3, 7, 15, 31
and 63 of a round constant are ever set (R110 marks that last sentence as derived). -/
def Obligations.KeccakTablesMatchTheirGenerators : Prop :=
  rhoGenerated = rhoTable ∧
  (∀ ir, ir < 24 → rcGenerated ir = roundConstant ir) ∧
  (∀ ir z, ir < 24 → z < 64 → z ∉ [0, 1, 3, 7, 15, 31, 63] → (roundConstant ir).getLsbD z = false)

/-- R102: θ, lane by lane, from the column parities. -/
def Obligations.ThetaByLane : Prop :=
  ∀ (a : Lanes) (x y : Nat), x < 5 → y < 5 →
    lane (theta a) (x + 5 * y) =
      (let c := fun k => lane a k ^^^ lane a (k + 5) ^^^ lane a (k + 10) ^^^ lane a (k + 15) ^^^ lane a (k + 20)
       lane a (x + 5 * y) ^^^ (c ((x + 4) % 5) ^^^ (c ((x + 1) % 5)).rotateLeft 1))

/-- R103, R104, R106: ρ rotates lane x + 5y left by the table's offset; π's output lane d is the input lane PI_SRC[d], so the
lane at (x, y) moves to (y, 2x + 3y). -/
def Obligations.RhoAndPiByLane : Prop :=
  ∀ a : Lanes,
    (∀ i, i < 25 →
      lane (rho a) i = (lane a i).rotateLeft
        ([0, 1, 62, 28, 27, 36, 44, 6, 55, 20, 3, 10, 43, 25, 39, 41, 45, 15, 21, 8, 18, 2, 61, 56, 14].getD i 0)) ∧
    (∀ d, d < 25 →
      lane (pi a) d = lane a
        ([0, 6, 12, 18, 24, 3, 9, 10, 16, 22, 1, 7, 13, 19, 20, 4, 5, 11, 17, 23, 2, 8, 14, 15, 21].getD d 0)) ∧
    (∀ x y, x < 5 → y < 5 → lane (pi a) (x + 5 * y) = lane a ((x + 3 * y) % 5 + 5 * x)) ∧
    (∀ x y, x < 5 → y < 5 → lane (pi a) (y + 5 * ((2 * x + 3 * y) % 5)) = lane a (x + 5 * y))

/-- R107, R108: χ from the old row, bit by bit, and ι on lane 0 alone. -/
def Obligations.ChiAndIotaByLane : Prop :=
  ∀ a : Lanes,
    (∀ x y z, x < 5 → y < 5 → z < 64 →
      (lane (chi a) (x + 5 * y)).getLsbD z =
        ((lane a (x + 5 * y)).getLsbD z ^^
          (!(lane a ((x + 1) % 5 + 5 * y)).getLsbD z && (lane a ((x + 2) % 5 + 5 * y)).getLsbD z))) ∧
    (∀ ir, lane (iota a ir) 0 = lane a 0 ^^^ roundConstant ir) ∧
    (∀ ir i, 1 ≤ i → i < 25 → lane (iota a ir) i = lane a i)

/-- R113: the in-place chain form of ρ followed by π gives the same lanes. -/
def Obligations.RhoPiChainIsRhoThenPi : Prop :=
  ∀ a : Lanes, rhoPiChain a = pi (rho a)

/-- R101, R111: the permutation is rounds 0 to 23 in increasing order, each of them theta, rho, pi, chi and then iota with the
round's index. -/
def Obligations.KeccakFIsTwentyFourRoundsInOrder : Prop :=
  (∀ (a : Lanes) (ir : Nat), rnd a ir = iota (chi (pi (rho (theta a)))) ir) ∧
  (∀ a : Lanes, ∃ after : Nat → Lanes,
    after 0 = a ∧ (∀ ir, ir < 24 → after (ir + 1) = iota (chi (pi (rho (theta (after ir))))) ir) ∧
    keccakF a = after 24)

/-- R112: no two states have the same image under the permutation (93_implementation_defined G8: general knowledge). -/
def Obligations.KeccakFIsInjective : Prop :=
  ∀ a b : Lanes, keccakF a = keccakF b → a = b

/-! ### Absorption and padding -/

/-- R132, which the spec marks as derived: "An ABSORB of N bytes starting at `pos = p` runs KeccakF exactly `(p + N) div rateBytes`
times and leaves `pos = (p + N) mod rateBytes`." -/
def Obligations.AbsorptionPositionAndPermutationCount : Prop :=
  ∀ (e : Engine) (bytes : List Byte), e.pos < e.sizeSel.rateBytes →
    (e.absorbBytes bytes).pos = (e.pos + bytes.length) % e.sizeSel.rateBytes ∧
    e.permutations bytes = (e.pos + bytes.length) / e.sizeSel.rateBytes

/-- The frame of absorption. R134, which the spec marks as derived: "Absorption writes only rate bytes". Until a block fills,
absorption XORs its bytes into S[pos] and the bytes after it and changes no other byte of the state. In every case one byte is
XORed into S[pos] and into no other byte, a capacity byte least of all, and the lanes after it are that XOR or, where the block
fills, its permutation. -/
def Obligations.AbsorptionChangesOnlyItsRateBytes : Prop :=
  (∀ (e : Engine) (bytes : List Byte) (j : Nat), e.pos + bytes.length < e.sizeSel.rateBytes → j < 200 →
    stateByte (e.absorbBytes bytes).lanes j =
      if e.pos ≤ j ∧ j < e.pos + bytes.length then stateByte e.lanes j ^^^ bytes.getD (j - e.pos) 0
      else stateByte e.lanes j) ∧
  (∀ (e : Engine) (b : Byte), e.pos < e.sizeSel.rateBytes →
    (∀ j, j < 200 → stateByte (memXor e.lanes e.pos b) j =
      if j = e.pos then stateByte e.lanes j ^^^ b else stateByte e.lanes j) ∧
    (∀ j, e.sizeSel.rateBytes ≤ j → j < 200 → stateByte (memXor e.lanes e.pos b) j = stateByte e.lanes j) ∧
    ((e.pos + 1 < e.sizeSel.rateBytes ∧ (e.absorbByte b).lanes = memXor e.lanes e.pos b) ∨
     (e.pos + 1 = e.sizeSel.rateBytes ∧ (e.absorbByte b).lanes = keccakF (memXor e.lanes e.pos b))))

/-- R56, which the spec marks as derived from R50 and R130: eight bytes at a lane boundary may be absorbed as one lane, with the permutation at the same point. -/
def Obligations.AlignedLaneAbsorptionIsByteAbsorption : Prop :=
  ∀ (e : Engine) (b0 b1 b2 b3 b4 b5 b6 b7 : Byte), e.pos % 8 = 0 → e.pos < e.sizeSel.rateBytes →
    e.absorbBytes [b0, b1, b2, b3, b4, b5, b6, b7] = e.absorbLane [b0, b1, b2, b3, b4, b5, b6, b7]

/-- R135, which the spec marks as derived: after absorbing M from a fresh context, the lanes are the block view's and the position
is len(M) mod rateBytes. -/
def Obligations.AbsorptionIsTheBlockView : Prop :=
  ∀ (z : SizeSel) (m : Mode) (msg : List Byte),
    ((Engine.construct z m).absorbBytes msg).lanes = blockView z.rateBytes msg ∧
    ((Engine.construct z m).absorbBytes msg).pos = (remainder z.rateBytes msg).length ∧
    (remainder z.rateBytes msg).length = msg.length % z.rateBytes

/-- R140, R141: the suffix byte goes to S[pos], 0x80 to the last byte of the block, and suffix | 0x80 where they are one byte;
no other byte and no other register changes. R140 and R141 mark two of these as derived: bit 7 of both suffix bytes is 0, and the
two XORs give the combined byte. -/
def Obligations.PaddingBytes : Prop :=
  Mode.sha3.suffix = 0x06 ∧ Mode.legacyKeccak.suffix = 0x01 ∧ (∀ m : Mode, m.suffix.getLsbD 7 = false) ∧
  (∀ (e : Engine) (j : Nat), e.pos < e.sizeSel.rateBytes → j < 200 →
    stateByte e.pad.lanes j = stateByte e.lanes j ^^^
      (if j = e.pos ∧ j = e.sizeSel.rateBytes - 1 then e.mode.suffix ||| 0x80
       else if j = e.pos then e.mode.suffix
       else if j = e.sizeSel.rateBytes - 1 then 0x80 else 0)) ∧
  (∀ e : Engine, e.pad.stage = e.stage ∧ e.pad.mode = e.mode ∧ e.pad.sizeSel = e.sizeSel ∧ e.pad.pos = e.pos)

/-- R135, R141, R144, R147: the digest the byte-at-a-time engine computes is the sponge over the blocks of the padded message (the
spec marks R135 and R147 as derived; `spongeDigest` is this model's own writing of the padded-message form). -/
def Obligations.DigestIsTheSpongeOfThePaddedMessage : Prop :=
  ∀ (z : SizeSel) (m : Mode) (msg : List Byte),
    (paddedMessage z.rateBytes m msg).length % z.rateBytes = 0 ∧ digestOf z m msg = spongeDigest z m msg

/-! ### The commands: results, completion and frame -/

/-- R160, R161, R168: INIT of a supported size writes every context register, in every stage; of any other size it answers
PARAM_ERROR and writes nothing. The whole next state is given, so nothing else changes. A set reserved bit spells no command. -/
def Obligations.InitResult : Prop :=
  ∀ (m : Mode) (bits : Half) (s : Sys2Proof.Machine.State),
    (∀ z : SizeSel, bits.toNat = z.outputBits →
      exec (.init m bits) s =
        .next { engine := { lanes := zeroLanes, stage := .initialized, mode := m, sizeSel := z, pos := 0 },
                commandPort := s.commandPort,
                responsePort := s.responsePort ++ [{ status := .ok, data := [] }] }) ∧
    ((∀ z : SizeSel, bits.toNat ≠ z.outputBits) →
      exec (.init m bits) s =
        .next { engine := s.engine, commandPort := s.commandPort,
                responsePort := s.responsePort ++ [{ status := .paramError, data := [] }] }) ∧
    (∀ w : Word, w.extractLsb' 28 4 = 1 → w.extractLsb' 17 11 ≠ 0 → ∃ err, decode [w] = .illegal err)

/-- R162, R161: INITF writes every context register, in every stage, and cannot fail. A set reserved bit spells no command. -/
def Obligations.InitfResult : Prop :=
  ∀ (m : Mode) (z : SizeSel) (s : Sys2Proof.Machine.State),
    exec (.initf m z) s =
      .next { engine := { lanes := zeroLanes, stage := .initialized, mode := m, sizeSel := z, pos := 0 },
              commandPort := s.commandPort,
              responsePort := s.responsePort ++ [{ status := .ok, data := [] }] } ∧
    (∀ w : Word, w.extractLsb' 28 4 = 2 → (w.extractLsb' 17 11 ≠ 0 ∨ w.extractLsb' 2 14 ≠ 0) →
      ∃ err, decode [w] = .illegal err)

/-- R130, R131: in Initialized or Absorbing, ABSORB folds the byte step over its payload and sets the stage; in NoContext or
Finalized it answers PRECONDITION and writes nothing. A set reserved bit or a word count other than 1 + ceil(N/4) spells no
command. -/
def Obligations.AbsorbResult : Prop :=
  ∀ (bytes : List Byte) (s : Sys2Proof.Machine.State),
    ((s.engine.stage = .initialized ∨ s.engine.stage = .absorbing) →
      exec (.absorb bytes) s =
        .next { engine :=
                  { (bytes.foldl
                      (fun (e : Engine) b =>
                        if e.pos + 1 = e.sizeSel.rateBytes then
                          { e with lanes := keccakF (memXor e.lanes e.pos b), pos := 0 }
                        else { e with lanes := memXor e.lanes e.pos b, pos := e.pos + 1 })
                      s.engine) with stage := .absorbing },
                commandPort := s.commandPort,
                responsePort := s.responsePort ++ [{ status := .ok, data := [] }] }) ∧
    ((s.engine.stage = .noContext ∨ s.engine.stage = .finalized) →
      exec (.absorb bytes) s =
        .next { engine := s.engine, commandPort := s.commandPort,
                responsePort := s.responsePort ++ [{ status := .precondition, data := [] }] }) ∧
    (∀ (w : Word) (rest : List Word), w.extractLsb' 28 4 = 3 →
      (w.extractLsb' 16 12 ≠ 0 ∨ rest.length ≠ ((w.extractLsb' 0 16).toNat + 3) / 4) →
      ∃ err, decode (w :: rest) = .illegal err)

/-- R142, R144: in Initialized or Absorbing, FINALIZE pads, permutes once and returns the first outputBytes bytes; in NoContext
or Finalized it answers PRECONDITION and writes nothing. No word of opcode 0x4 but 0x40000000 spells it. -/
def Obligations.FinalizeResult : Prop :=
  ∀ s : Sys2Proof.Machine.State,
    ((s.engine.stage = .initialized ∨ s.engine.stage = .absorbing) →
      ∃ a : Lanes,
        a = keccakF (memXor (memXor s.engine.lanes s.engine.pos s.engine.mode.suffix) (s.engine.sizeSel.rateBytes - 1) 0x80) ∧
        exec .finalize s =
          .next { engine := { lanes := a, stage := .finalized, mode := s.engine.mode, sizeSel := s.engine.sizeSel, pos := 0 },
                  commandPort := s.commandPort,
                  responsePort := s.responsePort ++
                    [{ status := .ok, data := (List.range s.engine.sizeSel.outputBytes).map fun j => stateByte a j }] }) ∧
    ((s.engine.stage = .noContext ∨ s.engine.stage = .finalized) →
      exec .finalize s =
        .next { engine := s.engine, commandPort := s.commandPort,
                responsePort := s.responsePort ++ [{ status := .precondition, data := [] }] }) ∧
    (∀ w : Word, w.extractLsb' 28 4 = 4 → w ≠ 0x40000000 → ∃ err, decode [w] = .illegal err)

/-- R163, R164, R168 with the default parameters: that a 224-bit ONESHOT succeeds rests on ONESHOT_224 = true (R9;
notes/assumptions/7.md). ONESHOT of a supported size with CAP ≤ BITS/8 constructs, absorbs, pads, permutes and
returns CAP digest bytes, in every stage; otherwise it answers PARAM_ERROR and writes nothing. A malformed transaction spells no
command. -/
def Obligations.OneshotResult : Prop :=
  ∀ (m : Mode) (bits cap : Half) (bytes : List Byte) (s : Sys2Proof.Machine.State),
    (∀ z : SizeSel, bits.toNat = z.outputBits → cap.toNat ≤ bits.toNat / 8 →
      ∃ (e : Engine) (a : Lanes),
        e = (Engine.construct z m).absorbBytes bytes ∧
        a = keccakF (memXor (memXor e.lanes e.pos m.suffix) (z.rateBytes - 1) 0x80) ∧
        exec (.oneshot m bits cap bytes) s =
          .next { engine := { lanes := a, stage := .finalized, mode := m, sizeSel := z, pos := 0 },
                  commandPort := s.commandPort,
                  responsePort := s.responsePort ++
                    [{ status := .ok, data := (List.range cap.toNat).map fun j => stateByte a j }] }) ∧
    (((∀ z : SizeSel, bits.toNat ≠ z.outputBits) ∨ cap.toNat > bits.toNat / 8) →
      exec (.oneshot m bits cap bytes) s =
        .next { engine := s.engine, commandPort := s.commandPort,
                responsePort := s.responsePort ++ [{ status := .paramError, data := [] }] }) ∧
    (∀ (w0 w1 : Word) (rest : List Word), w0.extractLsb' 28 4 = 5 →
      (∃ err, decode [w0] = .illegal err) ∧
      ((w0.extractLsb' 17 11 ≠ 0 ∨ rest.length ≠ ((w1.extractLsb' 0 16).toNat + 3) / 4) →
        ∃ err, decode (w0 :: w1 :: rest) = .illegal err))

/-- R163, R169: with ONESHOT_224 = false a 224-bit ONESHOT answers PARAM_ERROR and writes nothing; every other ONESHOT is the same
under both values of the parameter. -/
def Obligations.OneshotParameterExcludesOnly224 : Prop :=
  ∀ (p : Params) (m : Mode) (bits cap : Half) (bytes : List Byte) (s : Sys2Proof.Machine.State),
    (p.oneshot224 = false → bits.toNat = 224 →
      oneshotWith p m bits cap bytes s =
        .next { engine := s.engine, commandPort := s.commandPort,
                responsePort := s.responsePort ++ [{ status := .paramError, data := [] }] }) ∧
    ((p.oneshot224 = true ∨ bits.toNat ≠ 224) →
      oneshotWith p m bits cap bytes s = exec (.oneshot m bits cap bytes) s)

/-- R9, R163, R169, R181: a core built with any parameters runs every command as this machine does, but for a 224-bit ONESHOT where
ONESHOT_224 = false, which answers PARAM_ERROR and writes nothing; its steps run the decoded commands so, and no run of it stops. -/
def Obligations.ParameterChangesOnlyThe224BitOneshot : Prop :=
  ∀ p : Params,
    (∀ (i : Instr) (s : Sys2Proof.Machine.State),
      (p.oneshot224 = true ∨ ∀ m bits cap bytes, i = .oneshot m bits cap bytes → bits.toNat ≠ 224) →
      execWith p i s = exec i s) ∧
    (p.oneshot224 = false → ∀ (m : Mode) (bits cap : Half) (bytes : List Byte) (s : Sys2Proof.Machine.State),
      bits.toNat = 224 →
      execWith p (.oneshot m bits cap bytes) s =
        .next { engine := s.engine, commandPort := s.commandPort,
                responsePort := s.responsePort ++ [{ status := .paramError, data := [] }] }) ∧
    (∀ (s : Sys2Proof.Machine.State) (ws : Transaction) (rest : List HostEvent) (i : Instr),
      s.commandPort = .transaction ws :: rest → decode ws = .cmd i →
      stepWith p s = execWith p i { engine := s.engine, commandPort := rest, responsePort := s.responsePort }) ∧
    (∀ s : Sys2Proof.Machine.State,
      (∀ ws rest i, s.commandPort = .transaction ws :: rest → decode ws ≠ .cmd i) → stepWith p s = step s) ∧
    (∀ (n : Nat) (s : Sys2Proof.Machine.State), Continues (runStepsWith p n s))

/-- R146: RDDIG returns S[IDX] of a finalized context where IDX < outputBytes, answers PARAM_ERROR above, and PRECONDITION in every
other stage whatever the index (the stage is tested first, R185). It writes no register. -/
def Obligations.RddigResult : Prop :=
  ∀ (idx : Byte) (s : Sys2Proof.Machine.State),
    (s.engine.stage = .finalized → idx.toNat < s.engine.sizeSel.outputBytes →
      exec (.rddig idx) s =
        .next { engine := s.engine, commandPort := s.commandPort,
                responsePort := s.responsePort ++ [{ status := .ok, data := [stateByte s.engine.lanes idx.toNat] }] }) ∧
    (s.engine.stage = .finalized → s.engine.sizeSel.outputBytes ≤ idx.toNat →
      exec (.rddig idx) s =
        .next { engine := s.engine, commandPort := s.commandPort,
                responsePort := s.responsePort ++ [{ status := .paramError, data := [] }] }) ∧
    (s.engine.stage ≠ .finalized →
      exec (.rddig idx) s =
        .next { engine := s.engine, commandPort := s.commandPort,
                responsePort := s.responsePort ++ [{ status := .precondition, data := [] }] })

/-- R166, R30: STATUS returns the status word, least significant byte first, in every stage, and writes no register. -/
def Obligations.StatusResult : Prop :=
  ∀ s : Sys2Proof.Machine.State, ∃ w : Word,
    exec .status s =
      .next { engine := s.engine, commandPort := s.commandPort,
              responsePort := s.responsePort ++
                [{ status := .ok,
                   data := [w.extractLsb' 0 8, w.extractLsb' 8 8, w.extractLsb' 16 8, w.extractLsb' 24 8] }] } ∧
    w.extractLsb' 0 2 = s.engine.stage.code ∧ w.extractLsb' 5 27 = 0 ∧
    (s.engine.stage = .noContext → w = 0) ∧
    (s.engine.stage ≠ .noContext → w.extractLsb' 2 1 = s.engine.mode.code ∧ w.extractLsb' 3 2 = s.engine.sizeSel.code)

/-- R170: the complete state machine, with the default parameters: that a 224-bit ONESHOT answers 0 is ONESHOT_224 = true
(R9, R163; notes/assumptions/7.md). Every command in every stage answers once, with the table's status code, and reaches the
table's stage; where the table says "same", no register changes; a transaction that spells no command is "3, same" in every stage. -/
def Obligations.LifecycleTable : Prop :=
  (∀ (i : Instr) (s : Sys2Proof.Machine.State), ∃ (t : Sys2Proof.Machine.State) (r : Response),
    exec i s = .next t ∧ t.responsePort = s.responsePort ++ [r] ∧ r.status.code = (lifecycleCell i s.engine).1 ∧
    (match (lifecycleCell i s.engine).2 with
     | none => t.engine = s.engine
     | some g => t.engine.stage = g)) ∧
  (∀ (s : Sys2Proof.Machine.State) (ws : Transaction) (rest : List HostEvent) (err : DecodeError),
    s.commandPort = .transaction ws :: rest → decode ws = .illegal err →
    ∃ (t : Sys2Proof.Machine.State) (r : Response),
      step s = .next t ∧ t.responsePort = s.responsePort ++ [r] ∧ r.status.code = 3 ∧ t.engine = s.engine)

/-- R80, R180: every command answers exactly once and leaves the command port alone; an error has no data and changes no register;
the data of an OK response is what the table of R80 says. -/
def Obligations.OneResponseAndErrorsChangeNothing : Prop :=
  ∀ (i : Instr) (s : Sys2Proof.Machine.State), ∃ (t : Sys2Proof.Machine.State) (r : Response),
    exec i s = .next t ∧ t.commandPort = s.commandPort ∧ t.responsePort = s.responsePort ++ [r] ∧
    (r.status ≠ .ok → r.data = [] ∧ t.engine = s.engine) ∧ r.status ≠ .illegalCommand ∧
    (r.status = .ok →
      match i with
      | .init _ _ => r.data = []
      | .initf _ _ => r.data = []
      | .absorb _ => r.data = []
      | .finalize => r.data = memRead t.engine.lanes 0 t.engine.sizeSel.outputBytes
      | .oneshot _ _ cap _ => r.data = memRead t.engine.lanes 0 cap.toNat ∧ r.data.length = cap.toNat
      | .rddig idx => r.data = [stateByte s.engine.lanes idx.toNat]
      | .status => r.data = wordBytes (statusWord s.engine))

/-- R57, which marks this sentence as derived: "RDDIG and STATUS have no side effects, and repeating one returns the same data." -/
def Obligations.ReadCommandsRepeat : Prop :=
  ∀ (i : Instr) (s : Sys2Proof.Machine.State), (i = .status ∨ ∃ idx, i = .rddig idx) →
    ∃ r : Response, runCommands [i, i] s =
      .next { engine := s.engine, commandPort := s.commandPort, responsePort := s.responsePort ++ [r, r] }

/-- R25, R26: only a construction that answers OK changes `mode` or `sizeSel`. -/
def Obligations.ModeAndSizeChangeOnlyByConstruction : Prop :=
  ∀ (i : Instr) (s t : Sys2Proof.Machine.State), exec i s = .next t →
    (t.engine.mode ≠ s.engine.mode ∨ t.engine.sizeSel ≠ s.engine.sizeSel) →
    constructs i = true ∧ t.responsePort.getLast?.map Response.status = some .ok

/-! ### Steps, reset and idleness -/

/-- R84, R58: when the next transaction decodes to a command, the step runs that command on the state without the transaction. -/
def Obligations.StepRunsTheDecodedCommand : Prop :=
  ∀ (s : Sys2Proof.Machine.State) (ws : Transaction) (rest : List HostEvent) (i : Instr),
    s.commandPort = .transaction ws :: rest → decode ws = .cmd i →
    step s = exec i { engine := s.engine, commandPort := rest, responsePort := s.responsePort }

/-- R201, R200, R33: reset puts every register at its reset value and emits no response, whether or not it interrupts a transaction. That the
events after it and the responses before it stay as they are is the model's reading (notes/assumptions/4.md). -/
def Obligations.ResetEventRestoresTheResetState : Prop :=
  ∀ (s : Sys2Proof.Machine.State) (cut : Option Transaction) (rest : List HostEvent),
    s.commandPort = .reset cut :: rest →
    step s = .next { engine := { lanes := zeroLanes, stage := .noContext, mode := .sha3, sizeSel := .s224, pos := 0 },
                     commandPort := rest, responsePort := s.responsePort }

/-- R33: the registers after reset: every lane 0, stage NoContext, mode 0, sizeSel 0, pos 0, and the status word 0x00000000. -/
def Obligations.ResetValues : Prop :=
  (∀ i, i < 25 → lane Sys2Proof.Machine.State.reset.engine.lanes i = 0) ∧
  Sys2Proof.Machine.State.reset.engine.stage.code = 0 ∧ Sys2Proof.Machine.State.reset.engine.mode.code = 0 ∧
  Sys2Proof.Machine.State.reset.engine.sizeSel.code = 0 ∧ Sys2Proof.Machine.State.reset.engine.pos = 0 ∧
  statusWord Sys2Proof.Machine.State.reset.engine = 0

/-- R195: with nothing sent, the core is idle and keeps all its state; that a step of it is then a step to the same state is the
model's choice (notes/assumptions/2.md). -/
def Obligations.IdleCoreKeepsItsState : Prop :=
  ∀ s : Sys2Proof.Machine.State, s.commandPort = [] → step s = .next s

/-! ### Invariants -/

/-- R34, R35, which the spec marks as derived: "The invariant `pos < rateBytes(sizeSel)` holds in every state a command can reach", and
the two further invariants. Every step keeps them, from every state that meets them. -/
def Obligations.EveryStepKeepsTheContextInvariant : Prop :=
  ∀ s t : Sys2Proof.Machine.State, s.Inv → step s = .next t → t.Inv

/-- R34, R35 (derived, as above): the invariants hold at reset. -/
def Obligations.ResetMeetsTheContextInvariant : Prop :=
  Sys2Proof.Machine.State.reset.Inv

/-- R145: while a context is Finalized, commands that construct no context leave every register as it is, and ABSORB and FINALIZE
answer PRECONDITION. -/
def Obligations.FinalizedContextIsFrozen : Prop :=
  ∀ s : Sys2Proof.Machine.State, s.engine.stage = .finalized →
    (∀ is : List Instr, (∀ i ∈ is, constructs i = false) →
      ∃ t, runCommands is s = .next t ∧ t.engine = s.engine) ∧
    (∀ i : Instr, (i = .finalize ∨ ∃ bytes, i = .absorb bytes) →
      exec i s = .next { engine := s.engine, commandPort := s.commandPort,
                         responsePort := s.responsePort ++ [{ status := .precondition, data := [] }] })

/-- R33, which marks this as derived: "A model may therefore treat the other reset values as arbitrary without changing any
observation". What a host sees does not depend on the reset values of the lanes, mode, sizeSel and pos: two machines that differ in
them alone while NoContext stay so, with the same responses, step by step. -/
def Obligations.RegistersBeforeConstructionAreUnobservable : Prop :=
  ∀ s t : Sys2Proof.Machine.State, SameButUnobserved s t →
    ∃ s' t', step s = .next s' ∧ step t = .next t' ∧ SameButUnobserved s' t'

/-- R31, R53: capacity bytes and rate bytes past the digest of a finalized context are never observable: two machines that differ
in them alone stay so or become equal, with the same responses, step by step. -/
def Obligations.BytesPastTheDigestAreUnobservable : Prop :=
  ∀ s t : Sys2Proof.Machine.State, SameVisible s t →
    ∃ s' t', step s = .next s' ∧ step t = .next t' ∧ SameVisible s' t'

/-! ### Runs -/

/-- R133, which the spec marks as derived: absorbing a message in any chunks leaves the lanes and position of one absorb of all of it, and with at least one chunk
the whole context; a FINALIZE after either returns the same digest. An absorb of more than 65535 bytes is one no transaction
spells (notes/assumptions/11.md). -/
def Obligations.AbsorptionIsIncremental : Prop :=
  ∀ (s : Sys2Proof.Machine.State) (chunks : List (List Byte)),
    (s.engine.stage = .initialized ∨ s.engine.stage = .absorbing) →
    ∃ t u t' u' d,
      runCommands (chunks.map Instr.absorb) s = .next t ∧ exec (.absorb chunks.flatten) s = .next u ∧
      t.engine.lanes = u.engine.lanes ∧ t.engine.pos = u.engine.pos ∧ (chunks ≠ [] → t.engine = u.engine) ∧
      exec .finalize t = .next t' ∧ exec .finalize u = .next u' ∧
      t'.responsePort = t.responsePort ++ [{ status := .ok, data := d }] ∧
      u'.responsePort = u.responsePort ++ [{ status := .ok, data := d }]

/-- R196: "A claim about a digest takes as premise that each command of its sequence returned OK". Whatever the state before, if
ABSORBs of any chunks and a FINALIZE were all answered OK, the context accepted a message and the last response is the digest of
that context with the chunks' concatenation absorbed. -/
def Obligations.OkResponsesCertifyTheDigest : Prop :=
  ∀ (s t : Sys2Proof.Machine.State) (chunks : List (List Byte)),
    runCommands (chunks.map Instr.absorb ++ [.finalize]) s = .next t →
    AllOkFrom s.responsePort.length t →
    (s.engine.stage = .initialized ∨ s.engine.stage = .absorbing) ∧ t.engine.stage = .finalized ∧
    t.responsePort.getLast? =
      some { status := .ok, data := (s.engine.absorbBytes chunks.flatten).finalize.digest }

/-- R165, which the spec marks as derived, with the default parameters: at 224 bits it rests on ONESHOT_224 = true (R9, R163;
notes/assumptions/7.md). ONESHOT's data is the first CAP bytes of the digest that INIT, ABSORB and FINALIZE return, and both leave the same
context. -/
def Obligations.OneshotIsInitAbsorbFinalizeTruncated : Prop :=
  ∀ (m : Mode) (bits cap : Half) (bytes : List Byte) (s : Sys2Proof.Machine.State) (z : SizeSel),
    bits.toNat = z.outputBits → cap.toNat ≤ bits.toNat / 8 →
    ∃ t u d,
      exec (.oneshot m bits cap bytes) s = .next t ∧
      runCommands [.init m bits, .absorb bytes, .finalize] s = .next u ∧
      t.engine = u.engine ∧ d.length = z.outputBytes ∧
      u.responsePort = s.responsePort ++
        [{ status := .ok, data := [] }, { status := .ok, data := [] }, { status := .ok, data := d }] ∧
      t.responsePort = s.responsePort ++ [{ status := .ok, data := d.take cap.toNat }]

/-- R210, R70, R80, with the ports of notes/assumptions/2.md and 3.md. The events may be resets, and that a transaction after a
reset is still taken and answered is the model's reading (notes/assumptions/4.md). A run over any finite sequence of events ends in a next state that has taken every event and answered every
transaction once, after the responses already emitted; and no run of any length stops. -/
def Obligations.EveryRunAnswersEveryTransaction : Prop :=
  ∀ s : Sys2Proof.Machine.State,
    (∃ (t : Sys2Proof.Machine.State) (rs : List Response),
      runSteps s.commandPort.length s = .next t ∧ t.commandPort = [] ∧ t.responsePort = s.responsePort ++ rs ∧
      rs.length = s.commandPort.countP HostEvent.isTransaction) ∧
    (∀ n, Continues (runSteps n s))

/-- R58, R204, which speak of commands. The events may be resets, and that what comes after a reset stays on the port is the
model's reading (notes/assumptions/4.md). Events are handled in the order of arrival, each whole before the next: what is sent later changes nothing of what
the earlier events do. -/
def Obligations.EarlierEventsDoNotDependOnLaterOnes : Prop :=
  ∀ (s : Sys2Proof.Machine.State) (first later : List HostEvent), s.commandPort = first ++ later →
    ∃ t u : Sys2Proof.Machine.State,
      runSteps first.length s = .next t ∧
      runSteps first.length { engine := s.engine, commandPort := first, responsePort := s.responsePort } = .next u ∧
      t.commandPort = later ∧ u.commandPort = [] ∧ t.engine = u.engine ∧ t.responsePort = u.responsePort

/-- R147, R133, R170 over whole transactions: from any state, sending INIT, then ABSORBs of any chunks, then FINALIZE answers OK to each and
returns the sponge digest of the chunks' concatenation. -/
def Obligations.HashingTransactionsReturnTheSpongeDigest : Prop :=
  ∀ (s : Sys2Proof.Machine.State) (z : SizeSel) (m : Mode) (chunks : List (List Byte)) (later : List HostEvent),
    (∀ c ∈ chunks, c.length ≤ 65535) →
    s.commandPort =
      .transaction (encode (.init m (BitVec.ofNat 16 z.outputBits))) ::
        (chunks.map (fun c => HostEvent.transaction (encode (.absorb c))) ++
          (.transaction (encode .finalize) :: later)) →
    ∃ t : Sys2Proof.Machine.State,
      runSteps (chunks.length + 2) s = .next t ∧ t.commandPort = later ∧ t.engine.stage = .finalized ∧
      t.responsePort = s.responsePort ++
        (List.replicate (chunks.length + 1) { status := .ok, data := [] } ++
          [{ status := .ok, data := spongeDigest z m chunks.flatten }])

/-! ### Several instances -/

/-- R62: a step of one instance changes no other instance, and an instance steps as if it were alone. R62 speaks of commands; that the
others keep their state also where the step takes a reset event, a reset of that instance alone, is the model's choice
(notes/assumptions/18.md). R193: every instance starts in the reset state. That steps of two instances commute is inferred from R62; that the instance is an argument of the step, and that
a step of an instance that does not exist changes nothing, is the model's choice (notes/assumptions/1.md). -/
def Obligations.InstancesAreIsolated : Prop :=
  (∀ (sys : System) (k : Nat), ∃ sys', systemStep k sys = .next sys' ∧
    sys'.instances.length = sys.instances.length ∧
    (∀ j, j ≠ k → sys'.instances[j]? = sys.instances[j]?) ∧
    (∀ s, sys.instances[k]? = some s → ∃ t, stepWith sys.params s = .next t ∧ sys'.instances[k]? = some t)) ∧
  (∀ (sys : System) (j k : Nat), j ≠ k → ∃ a b c,
    systemStep j sys = .next a ∧ systemStep k a = .next c ∧ systemStep k sys = .next b ∧ systemStep j b = .next c) ∧
  (∀ (p : Params) (k : Nat), k < p.numInstances →
    (systemReset p).instances[k]? = some Sys2Proof.Machine.State.reset)

/-- R9, R62, R193, R200: a system starts with the NUM_INSTANCES instances of its parameters, at least one; steps and resets keep
that number and the parameters (R21); a reset of the system puts every instance's registers at their reset values. That the
ports stay as they are, and that a system may also reset one instance, is the model's choice (notes/assumptions/4.md, 18.md). -/
def Obligations.SystemKeepsItsParametersAndResetsAll : Prop :=
  (∀ p : Params, (systemReset p).params = p ∧ (systemReset p).Wf ∧ 1 ≤ (systemReset p).instances.length) ∧
  (∀ (k : Nat) (sys sys' : System), sys.Wf → systemStep k sys = .next sys' → sys'.Wf ∧ sys'.params = sys.params) ∧
  (∀ sys : System, sys.Wf →
    (systemAssertReset sys).Wf ∧ (systemAssertReset sys).params = sys.params ∧
    ∀ (k : Nat) (s : Sys2Proof.Machine.State), sys.instances[k]? = some s →
      (systemAssertReset sys).instances[k]? =
        some { engine := { lanes := zeroLanes, stage := .noContext, mode := .sha3, sizeSel := .s224, pos := 0 },
               commandPort := s.commandPort, responsePort := s.responsePort })

/-! ### The assembler -/

/-- R87: the assembler emits only commands the encoding can carry, and an operand out of its field's range is an assembly error:
each operand of INIT, INITF, ABSORB, ONESHOT and RDDIG, and of HASH, which is a ONESHOT (R88). -/
def Obligations.AssembledCommandsAreWellFormed : Prop :=
  (∀ (l : AsmLine) (is : List Instr), assembleLine l = some is → ∀ i ∈ is, i.wellFormed = true) ∧
  (∀ (bits : Nat) (m : Mode), 65535 < bits → assembleLine (.init bits m) = none) ∧
  (∀ (size : Nat) (m : Mode), size ∉ [224, 256, 384, 512] → assembleLine (.initf size m) = none) ∧
  (∀ bytes : List Byte, 65535 < bytes.length → assembleLine (.absorb bytes) = none) ∧
  (∀ (bits : Nat) (m : Mode) (cap : Nat) (bytes : List Byte), (65535 < bits ∨ 65535 < cap ∨ 65535 < bytes.length) →
    assembleLine (.oneshot bits m cap bytes) = none) ∧
  (∀ (bits : Nat) (m : Mode) (bytes : List Byte), (65535 < bits ∨ 65535 < bytes.length) →
    assembleLine (.hash bits m bytes) = none) ∧
  (∀ idx : Nat, 255 < idx → assembleLine (.rddig idx) = none)

/-- R88 and, for ABSORBL, R133: ABSORBL of any length leaves the same context as one absorb of all its bytes (for more than 65535
bytes an absorb no transaction spells, notes/assumptions/11.md), and HASH is the full-length ONESHOT, with the default parameters:
at 224 bits it rests on ONESHOT_224 = true (R9, R163; notes/assumptions/7.md). -/
def Obligations.PseudoInstructionsExpand : Prop :=
  (∀ (s : Sys2Proof.Machine.State) (bytes : List Byte),
    (s.engine.stage = .initialized ∨ s.engine.stage = .absorbing) →
    ∃ is t u, assembleLine (.absorbl bytes) = some is ∧ runCommands is s = .next t ∧
      exec (.absorb bytes) s = .next u ∧ t.engine = u.engine) ∧
  (∀ (s : Sys2Proof.Machine.State) (z : SizeSel) (m : Mode) (bytes : List Byte), bytes.length ≤ 65535 →
    ∃ is t, assembleLine (.hash z.outputBits m bytes) = some is ∧ runCommands is s = .next t ∧
      t.responsePort = s.responsePort ++ [{ status := .ok, data := digestOf z m bytes }])
end

