-- ==== Sys2Proof/Laws/Decode.lean ====
section
/-! SUPPORT. Lengths of packed and unpacked payloads. -/

namespace Sys2Proof

@[simp] theorem wordBytes_length (w : Word) : (wordBytes w).length = 4 := rfl

theorem flatMap_wordBytes_length (ps : List Word) : (ps.flatMap wordBytes).length = 4 * ps.length := by
  induction ps with
  | nil => rfl
  | cons p ps ih => simp [ih]; omega

theorem unpack_length (ps : List Word) (n : Nat) : (unpack ps n).length = min n (4 * ps.length) := by
  rw [unpack, List.length_take, flatMap_wordBytes_length]

/-- A payload is packed into `ceil(N/4)` words (R72, R83). -/
theorem pack_length (bs : List Byte) : (pack bs).length = payloadWords bs.length := by
  induction bs using pack.induct with
  | case1 | case2 | case3 | case4 => simp [pack, payloadWords]
  | case5 a b c d rest ih =>
    simp only [pack, List.length_cons, ih, payloadWords]
    omega

end Sys2Proof
end

