-- ==== Sys2Proof/Laws/State.lean ====
section
/-! SUPPORT. One lemma per field per update of State and Engine, so that no later proof unfolds a record update. -/

namespace Sys2Proof.Machine

section StateUpdates
variable (s : State) (e : Engine) (q : List HostEvent) (rs : List Response) (r : Response)

@[simp] theorem State.setEngine_engine : (s.setEngine e).engine = e := rfl
@[simp] theorem State.setEngine_commandPort : (s.setEngine e).commandPort = s.commandPort := rfl
@[simp] theorem State.setEngine_responsePort : (s.setEngine e).responsePort = s.responsePort := rfl

@[simp] theorem State.setCommands_engine : (s.setCommands q).engine = s.engine := rfl
@[simp] theorem State.setCommands_commandPort : (s.setCommands q).commandPort = q := rfl
@[simp] theorem State.setCommands_responsePort : (s.setCommands q).responsePort = s.responsePort := rfl

@[simp] theorem State.setResponses_engine : (s.setResponses rs).engine = s.engine := rfl
@[simp] theorem State.setResponses_commandPort : (s.setResponses rs).commandPort = s.commandPort := rfl
@[simp] theorem State.setResponses_responsePort : (s.setResponses rs).responsePort = rs := rfl

@[simp] theorem State.emit_engine : (s.emit r).engine = s.engine := rfl
@[simp] theorem State.emit_commandPort : (s.emit r).commandPort = s.commandPort := rfl
@[simp] theorem State.emit_responsePort : (s.emit r).responsePort = s.responsePort ++ [r] := rfl

/-- Two states with the same fields are the same state. -/
theorem State.eq_of_fields {s t : State} (he : s.engine = t.engine) (hc : s.commandPort = t.commandPort)
    (hr : s.responsePort = t.responsePort) : s = t := by
  cases s; cases t; simp_all

end StateUpdates

section EngineUpdates
variable (e : Engine) (a : Lanes) (g : Stage) (p : Nat)

@[simp] theorem Engine.setLanes_lanes : (e.setLanes a).lanes = a := rfl
@[simp] theorem Engine.setLanes_stage : (e.setLanes a).stage = e.stage := rfl
@[simp] theorem Engine.setLanes_mode : (e.setLanes a).mode = e.mode := rfl
@[simp] theorem Engine.setLanes_sizeSel : (e.setLanes a).sizeSel = e.sizeSel := rfl
@[simp] theorem Engine.setLanes_pos : (e.setLanes a).pos = e.pos := rfl

@[simp] theorem Engine.setStage_lanes : (e.setStage g).lanes = e.lanes := rfl
@[simp] theorem Engine.setStage_stage : (e.setStage g).stage = g := rfl
@[simp] theorem Engine.setStage_mode : (e.setStage g).mode = e.mode := rfl
@[simp] theorem Engine.setStage_sizeSel : (e.setStage g).sizeSel = e.sizeSel := rfl
@[simp] theorem Engine.setStage_pos : (e.setStage g).pos = e.pos := rfl

@[simp] theorem Engine.setPos_lanes : (e.setPos p).lanes = e.lanes := rfl
@[simp] theorem Engine.setPos_stage : (e.setPos p).stage = e.stage := rfl
@[simp] theorem Engine.setPos_mode : (e.setPos p).mode = e.mode := rfl
@[simp] theorem Engine.setPos_sizeSel : (e.setPos p).sizeSel = e.sizeSel := rfl
@[simp] theorem Engine.setPos_pos : (e.setPos p).pos = p := rfl

/-- Two engines with the same registers are the same engine. -/
theorem Engine.eq_of_fields {d e : Engine} (hl : d.lanes = e.lanes) (hs : d.stage = e.stage) (hm : d.mode = e.mode)
    (hz : d.sizeSel = e.sizeSel) (hp : d.pos = e.pos) : d = e := by
  cases d; cases e; simp_all

end EngineUpdates

end Sys2Proof.Machine
end

