-- ==== Sys2Proof/Laws/Ops.lean ====
section
/-! SUPPORT. One lemma per shared operation that says what it does, which later proofs cite instead of unfolding it. -/

namespace Sys2Proof.Machine

/-! ### Lanes -/

theorem lane_eq_getElem (a : Lanes) {i : Nat} (h : i < 25) : lane a i = a[i] := by
  simp [lane, h]

/-- Two lane files with the same 25 lanes are the same. -/
theorem lanes_ext {a b : Lanes} (h : ∀ i, i < 25 → lane a i = lane b i) : a = b := by
  apply Vector.ext
  intro i hi
  simpa [lane_eq_getElem, hi] using h i hi

theorem lane_buildLanes (f : Nat → Nat → Lane) {i : Nat} (h : i < 25) :
    lane (buildLanes f) i = f (i % 5) (i / 5) := by
  simp [lane, buildLanes, h]

theorem lane_set (a : Lanes) (j : Nat) (v : Lane) {i : Nat} (h : i < 25) :
    lane (a.setIfInBounds j v) i = if j = i then v else lane a i := by
  simp [lane_eq_getElem, h, Vector.getElem_setIfInBounds]

@[simp] theorem lane_zeroLanes (i : Nat) : lane zeroLanes i = 0 := by
  by_cases h : i < 25
  · simp [lane_eq_getElem, h, zeroLanes]
  · simp [lane, zeroLanes, h]

theorem lane_xorLanes (a b : Lanes) {i : Nat} (h : i < 25) :
    lane (xorLanes a b) i = lane a i ^^^ lane b i := by
  simp [lane_eq_getElem, h, xorLanes]

theorem lane_lanesOfBytes (bs : List Byte) {i : Nat} (h : i < 25) :
    lane (lanesOfBytes bs) i = laneOfBytes ((bs.drop (8 * i)).take 8) := by
  simp [lane, lanesOfBytes, h]

/-- `MemXor` changes the one lane that holds the byte. -/
theorem lane_memXor (a : Lanes) (j : Nat) (b : Byte) {i : Nat} (h : i < 25) :
    lane (memXor a j b) i =
      if j / 8 = i then lane a i ^^^ (b.zeroExtend 64 <<< (8 * (j % 8))) else lane a i := by
  rw [memXor, lane_set a _ _ h]
  split <;> simp_all

@[simp] theorem memRead_length (a : Lanes) (j n : Nat) : (memRead a j n).length = n := by
  simp [memRead]

/-! ### Sizes -/

/-- The sizes of R6, row by row. -/
theorem sizes_of_row (z : SizeSel) :
    (z = .s224 ∧ z.outputBytes = 28 ∧ z.rateBytes = 144) ∨ (z = .s256 ∧ z.outputBytes = 32 ∧ z.rateBytes = 136) ∨
    (z = .s384 ∧ z.outputBytes = 48 ∧ z.rateBytes = 104) ∨ (z = .s512 ∧ z.outputBytes = 64 ∧ z.rateBytes = 72) := by
  cases z <;> decide

theorem rateBytes_pos (z : SizeSel) : 0 < z.rateBytes := by cases z <;> decide

/-! ### The context -/

section Context
variable (e : Engine) (b : Byte) (bs cs : List Byte)

/-- What absorbing one byte can do. -/
theorem absorbByte_cases :
    (e.pos + 1 = e.sizeSel.rateBytes ∧
      e.absorbByte b = { e with lanes := keccakF (memXor e.lanes e.pos b), pos := 0 }) ∨
    (e.pos + 1 ≠ e.sizeSel.rateBytes ∧
      e.absorbByte b = { e with lanes := memXor e.lanes e.pos b, pos := e.pos + 1 }) := by
  unfold Engine.absorbByte
  by_cases h : e.pos + 1 = e.sizeSel.rateBytes
  · exact .inl ⟨h, by simp [h, Engine.setLanes, Engine.setPos]⟩
  · exact .inr ⟨h, by simp [h, Engine.setLanes, Engine.setPos]⟩

@[simp] theorem absorbByte_sizeSel : (e.absorbByte b).sizeSel = e.sizeSel := by
  rcases absorbByte_cases e b with ⟨-, h⟩ | ⟨-, h⟩ <;> rw [h]

@[simp] theorem absorbByte_mode : (e.absorbByte b).mode = e.mode := by
  rcases absorbByte_cases e b with ⟨-, h⟩ | ⟨-, h⟩ <;> rw [h]

@[simp] theorem absorbByte_stage : (e.absorbByte b).stage = e.stage := by
  rcases absorbByte_cases e b with ⟨-, h⟩ | ⟨-, h⟩ <;> rw [h]

@[simp] theorem absorbBytes_nil : e.absorbBytes [] = e := rfl

@[simp] theorem absorbBytes_cons : e.absorbBytes (b :: bs) = (e.absorbByte b).absorbBytes bs := rfl

theorem absorbBytes_append : e.absorbBytes (bs ++ cs) = (e.absorbBytes bs).absorbBytes cs :=
  List.foldl_append

@[simp] theorem absorbBytes_sizeSel : (e.absorbBytes bs).sizeSel = e.sizeSel := by
  induction bs generalizing e with
  | nil => rfl
  | cons b bs ih => simp [ih]

@[simp] theorem absorbBytes_mode : (e.absorbBytes bs).mode = e.mode := by
  induction bs generalizing e with
  | nil => rfl
  | cons b bs ih => simp [ih]

@[simp] theorem absorbBytes_stage : (e.absorbBytes bs).stage = e.stage := by
  induction bs generalizing e with
  | nil => rfl
  | cons b bs ih => simp [ih]

@[simp] theorem absorb_stage : (e.absorb bs).stage = .absorbing := rfl
@[simp] theorem absorb_sizeSel : (e.absorb bs).sizeSel = e.sizeSel := by simp [Engine.absorb]
@[simp] theorem absorb_mode : (e.absorb bs).mode = e.mode := by simp [Engine.absorb]
@[simp] theorem absorb_lanes : (e.absorb bs).lanes = (e.absorbBytes bs).lanes := rfl
@[simp] theorem absorb_pos : (e.absorb bs).pos = (e.absorbBytes bs).pos := rfl

@[simp] theorem finalize_stage : e.finalize.stage = .finalized := rfl
@[simp] theorem finalize_sizeSel : e.finalize.sizeSel = e.sizeSel := rfl
@[simp] theorem finalize_mode : e.finalize.mode = e.mode := rfl
@[simp] theorem finalize_pos : e.finalize.pos = 0 := rfl
@[simp] theorem finalize_lanes : e.finalize.lanes = keccakF e.pad.lanes := rfl

@[simp] theorem digest_length : e.digest.length = e.sizeSel.outputBytes := by simp [Engine.digest]

end Context

/-! ### Ending a command, and events -/

/-- Every way a command ends is one response over a possibly replaced engine. -/
theorem complete_eq (e : Engine) (data : List Byte) (s : State) :
    complete e data s = .next ((s.setEngine e).emit { status := .ok, data := data }) := rfl

theorem raise_eq (c : StatusCode) (s : State) : raise c s = .next (s.emit { status := c, data := [] }) := rfl

theorem step_of_empty {s : State} (h : s.commandPort = []) : step s = .next s := by
  simp [step, takeEvent, h, idle]

theorem step_of_transaction {s : State} {ws : Transaction} {rest : List HostEvent}
    (h : s.commandPort = .transaction ws :: rest) : step s = runTransaction exec ws (s.setCommands rest) := by
  simp [step, takeEvent, h]

theorem step_of_reset {s : State} {cut : Option Transaction} {rest : List HostEvent}
    (h : s.commandPort = .reset cut :: rest) : step s = takeReset (s.setCommands rest) := by
  simp [step, takeEvent, h]

/-! ### The parameters, and a system -/

/-- The machine of the default parameters is `exec`. -/
theorem execWith_default : execWith Config.params = exec := by
  funext i s
  cases i <;> rfl

theorem stepWith_default : stepWith Config.params = step := by
  funext s
  rw [stepWith, execWith_default, step]

/-- What a step of a system can do: nothing where there is no such instance, else that instance's own outcome. -/
theorem systemStep_cases (k : Nat) (sys : System) :
    (sys.instances[k]? = none ∧ systemStep k sys = .next sys) ∨
    ∃ s, sys.instances[k]? = some s ∧
      ((∃ t, stepWith sys.params s = .next t ∧
          systemStep k sys = .next { sys with instances := sys.instances.set k t }) ∨
       (∃ r, stepWith sys.params s = .fault r ∧ systemStep k sys = .fault r) ∨
       (∃ r, stepWith sys.params s = .refused r ∧ systemStep k sys = .refused r)) := by
  unfold systemStep
  cases hk : sys.instances[k]? with
  | none => exact .inl ⟨rfl, rfl⟩
  | some s =>
    refine .inr ⟨s, rfl, ?_⟩
    cases hs : stepWith sys.params s with
    | next t => exact .inl ⟨t, rfl, by simp [hs]⟩
    | fault r => exact .inr (.inl ⟨r, rfl, by simp [hs]⟩)
    | refused r => exact .inr (.inr ⟨r, rfl, by simp [hs]⟩)

@[simp] theorem systemReset_params (p : Params) : (systemReset p).params = p := rfl
@[simp] theorem systemReset_instances (p : Params) :
    (systemReset p).instances = List.replicate p.numInstances State.reset := rfl
@[simp] theorem systemAssertReset_params (sys : System) : (systemAssertReset sys).params = sys.params := rfl
@[simp] theorem systemAssertReset_instances (sys : System) :
    (systemAssertReset sys).instances = sys.instances.map fun s => s.setEngine Engine.reset := rfl

end Sys2Proof.Machine
end

