-- ==== Sys2Proof/Laws/PerInstr.lean ====
section
/-! SUPPORT. The family EncodedLength: a command's encoding has the word count R72 requires, constructor by constructor. -/

namespace Sys2Proof.Laws.EncodedLength

/-- The encoding of a command has as many words as R72 requires of its transaction. -/
def Statement (i : Instr) : Prop := (encode i).length = i.wordCount

theorem init (m : Mode) (bits : Half) : Statement (.init m bits) := rfl

theorem initf (m : Mode) (sz : SizeSel) : Statement (.initf m sz) := rfl

theorem absorb (bytes : List Byte) : Statement (.absorb bytes) := by
  simp [Statement, encode, Instr.wordCount, pack_length, Nat.add_comm]

theorem finalize : Statement .finalize := rfl

theorem oneshot (m : Mode) (bits cap : Half) (bytes : List Byte) : Statement (.oneshot m bits cap bytes) := by
  simp only [Statement, encode, Instr.wordCount, List.length_cons, pack_length]
  omega

theorem rddig (idx : Byte) : Statement (.rddig idx) := rfl

theorem status : Statement .status := rfl

end Sys2Proof.Laws.EncodedLength
end

