-- ==== Sys2Proof/Tests/Slice0.lean ====
section
/-! SUPPORT. The model's own tests, each with its expected value from spec/ (the vectors V<n> and programs P<n> of
95_test_vectors.md, or a format rule), and one witness for the hypotheses of each statement that has any. -/

namespace Sys2Proof.Tests

open Sys2Proof.Machine

/-- A machine with a given context, nothing sent and nothing answered. -/
def ctx (g : Stage) (z : SizeSel) (m : Mode) (p : Nat) (a : Lanes) : Machine.State :=
  { engine := { lanes := a, stage := g, mode := m, sizeSel := z, pos := p }, commandPort := [], responsePort := [] }

/-- A machine about to take one event. -/
def about (ev : HostEvent) (s : Machine.State) : Machine.State := s.setCommands [ev]

/-- The responses of a next state. -/
def answers (r : Result) : List Response :=
  match r with
  | .next t => t.responsePort
  | .fault _ => []
  | .refused _ => []

/-- The engine of a next state. -/
def engineAfter (r : Result) : Option Engine :=
  match r with
  | .next t => some t.engine
  | .fault _ => none
  | .refused _ => none

/-- The lanes `A[i] = i` of V11, V13, V14. -/
def countLanes : Lanes := buildLanes fun x y => BitVec.ofNat 64 (x + 5 * y)

/-- A state whose row 0 is given and whose other lanes are 0. -/
def rowLanes (v0 v1 v2 v3 v4 : Lane) : Lanes :=
  buildLanes fun x y => if y = 0 then [v0, v1, v2, v3, v4].getD x 0 else 0

def allLanes (a : Lanes) : List Nat := a.toList.map BitVec.toNat

def decodesTo (ws : Transaction) (i : Instr) : Bool := decode ws == .cmd i

def decodesToNothing (ws : Transaction) : Bool :=
  match decode ws with
  | .cmd _ => false
  | .illegal _ => true

/-! ### Well-formedness (R75, R77, R89) -/

theorem test_absorb_of_65536_bytes_is_ill_formed : (Instr.absorb (List.replicate 65536 0)).wellFormed = false := by
  rw [Instr.wellFormed, payloadFits, List.length_replicate]; rfl

theorem test_oneshot_of_65536_bytes_is_ill_formed :
    (Instr.oneshot .sha3 256 32 (List.replicate 65536 0)).wellFormed = false := by
  rw [Instr.wellFormed, payloadFits, List.length_replicate]; rfl

theorem test_absorb_of_65535_bytes_is_well_formed : (Instr.absorb (List.replicate 65535 0)).wellFormed = true := by
  rw [Instr.wellFormed, payloadFits, List.length_replicate]; rfl

/-! ### Decoding: words written out from the formats R73 to R79 -/

/-- V6: `INIT 500, SHA3`; R73: opcode 0001, reserved 0, M = 1, BITS = 0xFFFF. -/
theorem test_decode_init :
    decodesTo [0x100001F4] (.init .sha3 500) ∧ decodesTo [0x1001FFFF] (.init .legacyKeccak 65535) := by decide

/-- P4, P5: `INITF 224, KECCAK` and `INITF 512, KECCAK`; V1: `INITF 256, SHA3`. -/
theorem test_decode_initf :
    decodesTo [0x20010000] (.initf .legacyKeccak .s224) ∧ decodesTo [0x20010003] (.initf .legacyKeccak .s512) ∧
    decodesTo [0x20000001] (.initf .sha3 .s256) ∧ decodesTo [0x20000002] (.initf .sha3 .s384) := by decide

/-- V36: the byte past N = 3 is ignored; V50: "abcd". -/
theorem test_decode_absorb :
    decodesTo [0x30000003, 0xFF636261] (.absorb [0x61, 0x62, 0x63]) ∧
    decodesTo [0x30000004, 0x64636261] (.absorb [0x61, 0x62, 0x63, 0x64]) ∧ decodesTo [0x30000000] (.absorb []) := by decide

/-- R76, R79. -/
theorem test_decode_finalize_and_status : decodesTo [0x40000000] .finalize ∧ decodesTo [0x70000000] .status := by decide

/-- V4: `ONESHOT 256, SHA3, 16, "abc"`; V51: `50010200 00400000`. -/
theorem test_decode_oneshot :
    decodesTo [0x50000100, 0x00100003, 0x00636261] (.oneshot .sha3 256 16 [0x61, 0x62, 0x63]) ∧
    decodesTo [0x50010200, 0x00400000] (.oneshot .legacyKeccak 512 64 []) := by decide

/-- V52: `RDDIG 200`. -/
theorem test_decode_rddig : decodesTo [0x600000C8] (.rddig 200) := by decide

/-- V50: the illegal transactions, in the table's order. -/
theorem test_decode_illegal :
    ([[], [0x00000000], [0x80000000], [0xF0000000], [0x00000000, 0x00000001], [0x10020100], [0x20000004], [0x40000001]] ++
     [[0x70000001], [0x60000100], [0x30010000], [0x30000005, 0x00000000], [0x30000004, 0x00000000, 0x00000000]] ++
     [[0x50000100], [0x10000100, 0x00000000], [0x40000000, 0x00000000]] : List Transaction).all decodesToNothing = true := by decide

/-- V50 again, by the list of R85; a well-formed ABSORB is none of the five kinds. -/
theorem test_illegal_form :
    illegalForm [0x30000005, 0x00000000] = true ∧ illegalForm [0x50000100] = true ∧ illegalForm [0x80000000] = true ∧
    illegalForm [0x30000004, 0x64636261] = false := by decide

/-- P2, P3: the encodings of `ABSORB "ab"`, `ONESHOT 256, SHA3, 33, "abc"` and `RDDIG 31`. -/
theorem test_encode_words :
    encode (.absorb [0x61, 0x62]) = [0x30000002, 0x00006261] ∧
    encode (.oneshot .sha3 256 33 [0x61, 0x62, 0x63]) = [0x50000100, 0x00210003, 0x00636261] ∧
    encode (.rddig 31) = [0x6000001F] := by decide

/-- opcode_table.json: no two rows accept one first word (a difference in the opcode bits that both masks keep). -/
theorem test_table_rows_are_disjoint :
    opcodeTable.Pairwise (fun r q => r.pattern &&& q.mask &&& r.mask ≠ q.pattern &&& r.mask &&& q.mask) := by decide

theorem test_table_word_of_absorb : decodeTableWord 32 0x30000005 = some (.absorb [0, 0, 0, 0, 0]) := by decide

theorem test_table_word_of_oneshot : decodeTableWord 32 0x500100E0 = some (.oneshot .legacyKeccak 224 0 []) := by decide

/-! ### The permutation -/

/-- V11. -/
theorem test_theta_of_count :
    allLanes (theta countLanes) =
      [0x1A, 0x09, 0x0D, 0x1D, 0x2F] ++ [0x1F, 0x0E, 0x08, 0x16, 0x22] ++ [0x10, 0x03, 0x03, 0x13, 0x25] ++
      [0x15, 0x18, 0x1E, 0x0C, 0x38] ++ [0x0E, 0x1D, 0x19, 0x09, 0x33] := by decide +kernel

/-- V13, rows 0 and 4. -/
theorem test_rho_of_count :
    (allLanes (rho countLanes)).take 5 = [0, 2, 0x8000000000000000, 0x30000000, 0x20000000] ∧
    (allLanes (rho countLanes)).drop 20 = [0x500000, 0x54, 0xC000000000000002, 0x1700000000000000, 0x60000] := by
  decide +kernel

/-- V14. -/
theorem test_pi_of_count :
    allLanes (pi countLanes) =
      [0, 6, 12, 18, 24] ++ [3, 9, 10, 16, 22] ++ [1, 7, 13, 19, 20] ++ [4, 5, 11, 17, 23] ++ [2, 8, 14, 15, 21] := by
  decide +kernel

/-- V16. -/
theorem test_chi_of_a_row :
    (allLanes (chi (rowLanes 0xF0 0xCC 0xAA 0 0))).take 5 = [0xD2, 0xCC, 0xAA, 0xF0, 0x0C] := by decide +kernel

/-- V18, rows 0 and 3. -/
theorem test_two_rounds_from_zero :
    (allLanes (rnd (rnd zeroLanes 0) 1)).take 5 = [0x8083, 0x100000000000, 0x8000, 0x1, 0x100000008000] ∧
    ((allLanes (rnd (rnd zeroLanes 0) 1)).drop 15).take 5 = [0x10000400, 0, 0x400, 0x10000000, 0] := by decide +kernel

/-- V19: lanes 0, 7 and 24 of KeccakF(0). -/
theorem test_keccakF_of_zero :
    [0, 7, 24].map (lane (keccakF zeroLanes)) = [0xF1258F7940E1DDE7, 0x8C5BDA0CD6192E76, 0xEAF1FF7B5CECA249] := by
  decide +kernel

/-! ### The commands -/

/-- V52: `INIT 500` in the middle of a message answers PARAM_ERROR and leaves stage 2 and pos 3. -/
theorem test_init_of_500_bits_writes_nothing :
    let s := ctx .absorbing .s256 .sha3 3 (rowLanes 0x636261 0 0 0 0)
    exec (.init .legacyKeccak 500) s = .next (s.emit { status := .paramError, data := [] }) := rfl

/-- R160, R161, R167: `INIT 384, KECCAK` on a finalized context constructs a fresh one. -/
theorem test_init_of_384_bits_constructs :
    engineAfter (exec (.init .legacyKeccak 384) (ctx .finalized .s256 .sha3 0 countLanes)) =
      some { lanes := zeroLanes, stage := .initialized, mode := .legacyKeccak, sizeSel := .s384, pos := 0 } := by decide

/-- P4: after `INITF 224, KECCAK`, STATUS returns 0x00000005. -/
theorem test_initf_then_status_word :
    (engineAfter (exec (.initf .legacyKeccak .s224) Machine.State.reset)).map statusWord = some 0x00000005 := by decide

/-- V30: after `ABSORB "abc"` pos = 3, stage = Absorbing, A[0] = 0x636261 and all other lanes are 0. -/
theorem test_absorb_abc :
    engineAfter (exec (.absorb [0x61, 0x62, 0x63]) (ctx .initialized .s256 .sha3 0 zeroLanes)) =
      some { lanes := rowLanes 0x636261 0 0 0 0, stage := .absorbing, mode := .sha3, sizeSel := .s256, pos := 3 } := by
  decide +kernel

/-- V33: ABSORB `pat(136)` at 256 runs one permutation: pos = 0 and A[0] = 0xC9834334D2362F28. -/
theorem test_absorb_of_a_whole_block :
    (engineAfter (exec (.absorb (patBytes 136)) (ctx .initialized .s256 .sha3 0 zeroLanes))).map
      (fun e => (e.pos, lane e.lanes 0)) = some (0, 0xC9834334D2362F28) := by decide +kernel

/-- V1: SHA3-256 of the empty message, the source's known answer. -/
theorem test_finalize_empty_sha3_256 :
    answers (exec .finalize (ctx .initialized .s256 .sha3 0 zeroLanes)) =
      [{ status := .ok,
         data := [0xa7, 0xff, 0xc6, 0xf8, 0xbf, 0x1e, 0xd7, 0x66, 0x51, 0xc1, 0x47, 0x56, 0xa0, 0x61, 0xd6, 0x62] ++
                 [0xf5, 0x80, 0xff, 0x4d, 0xe4, 0x3b, 0x49, 0xfa, 0x82, 0xd8, 0x0a, 0x4b, 0x80, 0xf8, 0x43, 0x4a] }] := by
  decide +kernel

/-- V32, V43: the combined-byte case at 135 bytes in LegacyKeccak mode puts 0x81 into S[135]. -/
theorem test_pad_of_the_last_byte :
    stateByte (Engine.pad { lanes := zeroLanes, stage := .absorbing, mode := .legacyKeccak, sizeSel := .s256,
                            pos := 135 }).lanes 135 = 0x81 := by decide

/-- P3, V4: the first 16 bytes of SHA3-256("abc"). -/
theorem test_oneshot_truncates :
    answers (exec (.oneshot .sha3 256 16 [0x61, 0x62, 0x63]) Machine.State.reset) =
      [{ status := .ok,
         data := [0x3a, 0x98, 0x5d, 0xa7, 0x4f, 0xe2, 0x25, 0xb2, 0x04, 0x5c, 0x17, 0x2d, 0x6b, 0xd3, 0x90, 0xbd] }] := by
  decide +kernel

/-- V51: CAP 33 at 256 bits, CAP 29 at 224 bits, and 224 bits with ONESHOT_224 = false. -/
theorem test_oneshot_parameter_errors :
    let err : List Response := [{ status := .paramError, data := [] }]
    answers (exec (.oneshot .sha3 256 33 []) Machine.State.reset) = err ∧
    answers (exec (.oneshot .sha3 224 29 []) Machine.State.reset) = err ∧
    answers (oneshotWith { oneshot224 := false, numInstances := 1 } .sha3 224 28 [] Machine.State.reset) = err := by decide

/-- P2, V54: with P2's lane 3 = 0x3215431145E2BF46, `RDDIG 31` returns 0x32 and `RDDIG 32` answers PARAM_ERROR. -/
theorem test_rddig_last_byte_and_past_it :
    let s := ctx .finalized .s256 .sha3 0 (rowLanes 0 0 0 0x3215431145E2BF46 0)
    answers (exec (.rddig 31) s) = [{ status := .ok, data := [0x32] }] ∧
    answers (exec (.rddig 32) s) = [{ status := .paramError, data := [] }] := by decide +kernel

/-- V52: `RDDIG 200` while Absorbing answers PRECONDITION, the stage being tested first. -/
theorem test_rddig_tests_the_stage_first :
    answers (exec (.rddig 200) (ctx .absorbing .s256 .sha3 3 zeroLanes)) = [{ status := .precondition, data := [] }] := by
  decide

/-- V53: 0x0000001E and 0x00000013, least significant byte first. -/
theorem test_status_words :
    answers (exec .status (ctx .absorbing .s512 .legacyKeccak 0 zeroLanes)) =
      [{ status := .ok, data := [0x1e, 0, 0, 0] }] ∧
    answers (exec .status (ctx .finalized .s384 .sha3 0 zeroLanes)) = [{ status := .ok, data := [0x13, 0, 0, 0] }] := by
  decide

/-! ### Steps, instances, assembler -/

/-- P4: FINALIZE as the first transaction after reset answers PRECONDITION. -/
theorem test_first_step_after_reset :
    answers (step (Machine.State.reset.withFetchWord 32 0x40000000)) = [{ status := .precondition, data := [] }] := by decide

/-- V50, R185: 0x40000001 in stage Finalized answers ILLEGAL_COMMAND, not PRECONDITION. -/
theorem test_illegal_before_precondition :
    answers (step (about (.transaction [0x40000001]) (ctx .finalized .s256 .sha3 0 zeroLanes))) =
      [{ status := .illegalCommand, data := [] }] := by decide

/-- R201: a reset during an ABSORB emits no response and leaves the reset state. -/
theorem test_reset_interrupts :
    step (about (.reset (some [0x30000000])) (ctx .absorbing .s256 .sha3 3 countLanes)) = .next Machine.State.reset := rfl

/-- V51: a step of a core built with ONESHOT_224 = false answers 1 to `500000E0 001C0000`. -/
theorem test_step_with_the_other_parameter :
    answers (stepWith { oneshot224 := false, numInstances := 1 }
      (about (.transaction [0x500000E0, 0x001C0000]) Machine.State.reset)) = [{ status := .paramError, data := [] }] := by
  decide

/-- R62: instance 1 steps, instance 0 stays. -/
theorem test_system_step :
    (match systemStep 1 { params := Config.params,
                          instances := [ctx .finalized .s256 .sha3 0 zeroLanes,
                                        about (.transaction [0x20000000]) Machine.State.reset] } with
     | .next sys => sys.instances.map fun s => s.engine.stage
     | .fault _ => []
     | .refused _ => []) = [.finalized, .initialized] := by decide

/-- P3: the written form of a ONESHOT; R88: `HASH`, `KECCAK_384`. -/
theorem test_assemble_lines :
    assemble "ONESHOT 256, SHA3, 16, \"abc\"   ; truncated".toList = some [.oneshot .sha3 256 16 [0x61, 0x62, 0x63]] ∧
    assemble "HASH 512, KECCAK, pat(3)".toList = some [.oneshot .legacyKeccak 512 64 [0, 1, 2]] ∧
    assemble "KECCAK_384".toList = some [.initf .legacyKeccak .s384] ∧
    assemble "INIT 256".toList = some [.init .sha3 256] := by decide +kernel

/-- R87: operands out of range, and an unknown mnemonic, are assembly errors. -/
theorem test_assemble_errors :
    assemble "RDDIG 256".toList = none ∧ assemble "INITF 300, SHA3".toList = none ∧
    assemble "ABSORB 0x61, 256".toList = none ∧ assemble "PERMUTE".toList = none := by decide +kernel

/-! ### Witnesses: states and operands that meet the hypotheses of each statement that has any -/

/-- `s` with a command port of its own. -/
def sending (q : List HostEvent) (s : Machine.State) : Machine.State := s.setCommands q

/-- A context that is absorbing at position 3, at 256 bits. -/
def midMessage : Machine.State := ctx .absorbing .s256 .sha3 3 (rowLanes 0x636261 0 0 0 0)

theorem witness_DecodeOfEncodeIsTheCommand :
    (Instr.oneshot .legacyKeccak 0xFFFF 0xFFFF [1, 2, 3, 4, 5]).wellFormed = true ∧ (Instr.absorb []).wellFormed = true := by
  decide

theorem witness_DecodedTransactionIsTheEncoding :
    decode [0x30000003, 0xFF636261] = .cmd (.absorb [0x61, 0x62, 0x63]) ∧
    decode [0x50000100, 0x00100003, 0xFF636261] = .cmd (.oneshot .sha3 256 16 [0x61, 0x62, 0x63]) := by decide

theorem witness_DecodeAcceptsExactlyTheOpcodeTable :
    decode [0x600000FF] = .cmd (.rddig 255) ∧
    (⟨"ABSORB", 0x30000000, 0xFFFF0000, .inW0⟩ : OpcodeRow) ∈ opcodeTable ∧
    (⟨"ABSORB", 0x30000000, 0xFFFF0000, .inW0⟩ : OpcodeRow).accepts [0x30000001, 0xFF] = true := by decide

theorem witness_IllegalTransactionIsRejectedWhole :
    (sending [.transaction [0x30000001], .transaction [0x70000000]] midMessage).commandPort =
      .transaction [0x30000001] :: [.transaction [0x70000000]] ∧ illegalForm [0x30000001] = true := by decide

theorem witness_PayloadBytesAreLittleEndian :
    5 ≤ 4 * [0x64636261#32, 0x65#32].length ∧ 5 ≤ 4 * [0x64636261#32, 0xFF65#32].length ∧ 4 < 5 ∧
    ∀ k, k < 5 → ([0x64636261#32, 0x65#32].getD (k / 4) 0).extractLsb' (8 * (k % 4)) 8 =
      ([0x64636261#32, 0xFF65#32].getD (k / 4) 0).extractLsb' (8 * (k % 4)) 8 := by decide

theorem witness_ByteViewIsLittleEndian : 199 < 200 ∧ 7 < 8 ∧ 24 < 25 := by decide

theorem witness_MemXorChangesOneByte : 199 < 200 ∧ 0 < 200 := by decide

theorem witness_KeccakTablesMatchTheirGenerators : 23 < 24 ∧ 62 < 64 ∧ 62 ∉ [0, 1, 3, 7, 15, 31, 63] := by decide

theorem witness_step_mappings_by_lane : 4 < 5 ∧ 24 < 25 ∧ 1 ≤ 24 ∧ 63 < 64 := by decide

theorem witness_KeccakFIsInjective : keccakF zeroLanes = keccakF zeroLanes := rfl

theorem witness_AbsorptionPositionAndPermutationCount :
    (ctx .absorbing .s512 .sha3 71 zeroLanes).engine.pos < (ctx .absorbing .s512 .sha3 71 zeroLanes).engine.sizeSel.rateBytes := by
  decide

/-- Within the block, and at its last byte. -/
theorem witness_AbsorptionChangesOnlyItsRateBytes :
    midMessage.engine.pos + [0x64#8, 0x65#8].length < midMessage.engine.sizeSel.rateBytes ∧
    midMessage.engine.pos < midMessage.engine.sizeSel.rateBytes ∧
    midMessage.engine.sizeSel.rateBytes ≤ 136 ∧ 136 < 200 ∧
    (ctx .absorbing .s256 .sha3 135 zeroLanes).engine.pos + 1 = SizeSel.s256.rateBytes := by decide

theorem witness_AlignedLaneAbsorptionIsByteAbsorption :
    (ctx .absorbing .s256 .sha3 128 zeroLanes).engine.pos % 8 = 0 ∧
    (ctx .absorbing .s256 .sha3 128 zeroLanes).engine.pos < SizeSel.s256.rateBytes := by decide

theorem witness_PaddingBytes :
    (ctx .absorbing .s256 .sha3 135 zeroLanes).engine.pos < SizeSel.s256.rateBytes ∧ 199 < 200 := by decide

/-- Every clause at a boundary: the largest size, and two sizes that name none. -/
theorem witness_InitResult :
    (512#16).toNat = SizeSel.s512.outputBits ∧ (∀ z : SizeSel, (225#16).toNat ≠ z.outputBits) ∧
    (∀ z : SizeSel, (0#16).toNat ≠ z.outputBits) :=
  ⟨rfl, fun z => by cases z <;> decide, fun z => by cases z <;> decide⟩

/-- A reserved bit set under each opcode, and word counts one off. -/
theorem witness_illegal_clauses_of_results :
    (0x10020000#32).extractLsb' 28 4 = 1 ∧ (0x10020000#32).extractLsb' 17 11 ≠ 0 ∧
    (0x20000004#32).extractLsb' 28 4 = 2 ∧ (0x20000004#32).extractLsb' 2 14 ≠ 0 ∧
    (0x30000005#32).extractLsb' 28 4 = 3 ∧ [0#32].length ≠ (((0x30000005#32).extractLsb' 0 16).toNat + 3) / 4 ∧
    (0x40000001#32).extractLsb' 28 4 = 4 ∧ 0x40000001#32 ≠ 0x40000000 ∧
    (0x50000100#32).extractLsb' 28 4 = 5 ∧ [0#32].length ≠ (((0x00100000#32).extractLsb' 0 16).toNat + 3) / 4 := by decide

theorem witness_AbsorbResult :
    (ctx .initialized .s256 .sha3 0 zeroLanes).engine.stage = .initialized ∧ midMessage.engine.stage = .absorbing ∧
    Machine.State.reset.engine.stage = .noContext ∧ (ctx .finalized .s256 .sha3 0 zeroLanes).engine.stage = .finalized := by
  decide

theorem witness_FinalizeResult :
    midMessage.engine.stage = .absorbing ∧ Machine.State.reset.engine.stage = .noContext := by decide

/-- CAP at and just above the bound, and a size that names none. -/
theorem witness_OneshotResult :
    (256#16).toNat = SizeSel.s256.outputBits ∧ (32#16).toNat ≤ (256#16).toNat / 8 ∧ (33#16).toNat > (256#16).toNat / 8 ∧
    (∀ z : SizeSel, (500#16).toNat ≠ z.outputBits) :=
  ⟨rfl, by decide, by decide, fun z => by cases z <;> decide⟩

theorem witness_OneshotParameterExcludesOnly224 :
    ({ oneshot224 := false, numInstances := 1 } : Params).oneshot224 = false ∧ (224#16).toNat = 224 ∧ (256#16).toNat ≠ 224 := by
  decide

/-- The index at and just below the bound, and a stage that is not Finalized. -/
theorem witness_RddigResult :
    (ctx .finalized .s256 .sha3 0 zeroLanes).engine.stage = .finalized ∧ (31#8).toNat < SizeSel.s256.outputBytes ∧
    SizeSel.s256.outputBytes ≤ (32#8).toNat ∧ midMessage.engine.stage ≠ .finalized := by decide

theorem witness_StatusResult :
    Machine.State.reset.engine.stage = .noContext ∧ midMessage.engine.stage ≠ .noContext := by decide

theorem witness_LifecycleTable :
    (sending [.transaction [0x10020100], .reset none] midMessage).commandPort = .transaction [0x10020100] :: [.reset none] ∧
    decode [0x10020100] = .illegal .reservedBits := by decide

theorem witness_OneResponseAndErrorsChangeNothing :
    ∃ t, exec (.rddig 255) midMessage = .next t ∧ t.responsePort = [] ++ [{ status := .precondition, data := [] }] :=
  ⟨_, rfl, rfl⟩

theorem witness_ReadCommandsRepeat : (Instr.rddig 31 = .status ∨ ∃ idx, Instr.rddig 31 = .rddig idx) := .inr ⟨31, rfl⟩

theorem witness_ModeAndSizeChangeOnlyByConstruction :
    ∃ t, exec (.initf .legacyKeccak .s512) midMessage = .next t ∧
      (t.engine.mode ≠ midMessage.engine.mode ∨ t.engine.sizeSel ≠ midMessage.engine.sizeSel) :=
  ⟨_, rfl, by decide⟩

/-- A command the parameter reaches and one it does not, a step that runs each, and a step that runs no command. -/
theorem witness_ParameterChangesOnlyThe224BitOneshot :
    let p : Params := { oneshot224 := false, numInstances := 1 }
    p.oneshot224 = false ∧ (224#16).toNat = 224 ∧ Config.params.oneshot224 = true ∧
    (∀ m bits cap bytes, Instr.status = .oneshot m bits cap bytes → bits.toNat ≠ 224) ∧
    (sending [.transaction [0x500000E0, 0x001C0000]] midMessage).commandPort = .transaction [0x500000E0, 0x001C0000] :: [] ∧
    decode [0x500000E0, 0x001C0000] = .cmd (.oneshot .sha3 224 28 []) ∧
    (∀ ws rest i, midMessage.commandPort = .transaction ws :: rest → decode ws ≠ .cmd i) :=
  ⟨rfl, rfl, rfl, nofun, rfl, by decide, nofun⟩

theorem witness_StepRunsTheDecodedCommand :
    (sending [.transaction [0x40000000], .reset none] midMessage).commandPort =
      .transaction [0x40000000] :: [.reset none] ∧ decode [0x40000000] = .cmd .finalize := by decide

theorem witness_ResetEventRestoresTheResetState :
    (sending [.reset (some [0x40000000]), .transaction [0x70000000]] midMessage).commandPort =
      .reset (some [0x40000000]) :: [.transaction [0x70000000]] := by decide

theorem witness_IdleCoreKeepsItsState : midMessage.commandPort = [] := rfl

theorem witness_EveryStepKeepsTheContextInvariant :
    let s := sending [.transaction [0x30000001, 0x64]] midMessage
    s.Inv ∧ ∃ t, step s = .next t := by
  exact ⟨by decide, _, rfl⟩

theorem witness_FinalizedContextIsFrozen :
    (ctx .finalized .s256 .sha3 0 zeroLanes).engine.stage = .finalized ∧
    (∀ i ∈ [Instr.absorb [1], .finalize, .rddig 0, .status], constructs i = false) := by decide

/-- Two NoContext machines with different lanes, mode, size and position. -/
theorem witness_RegistersBeforeConstructionAreUnobservable :
    SameButUnobserved (ctx .noContext .s224 .sha3 0 zeroLanes) (ctx .noContext .s512 .legacyKeccak 9 countLanes) :=
  ⟨rfl, rfl, rfl, fun h => absurd rfl h⟩

/-- Two finalized machines whose lane 24, in the capacity, differs. -/
theorem witness_BytesPastTheDigestAreUnobservable :
    SameVisible (ctx .finalized .s256 .sha3 0 zeroLanes)
      (ctx .finalized .s256 .sha3 0 (zeroLanes.setIfInBounds 24 1)) :=
  .inr ⟨rfl, rfl, rfl, rfl, rfl, rfl, by decide +kernel⟩

theorem witness_AbsorptionIsIncremental : midMessage.engine.stage = .initialized ∨ midMessage.engine.stage = .absorbing := by
  decide

theorem witness_OkResponsesCertifyTheDigest :
    ∃ t, runCommands (([[0x64], []] : List (List Byte)).map Instr.absorb ++ [.finalize]) midMessage = .next t ∧
      AllOkFrom midMessage.responsePort.length t := by
  refine ⟨_, rfl, ?_⟩
  intro r hr
  simp [midMessage, ctx] at hr
  rcases hr with rfl | rfl | rfl <;> rfl

theorem witness_OneshotIsInitAbsorbFinalizeTruncated :
    (224#16).toNat = SizeSel.s224.outputBits ∧ (28#16).toNat ≤ (224#16).toNat / 8 := by decide

theorem witness_EarlierEventsDoNotDependOnLaterOnes :
    (sending [.reset none, .transaction [0x70000000]] midMessage).commandPort =
      [.reset none] ++ [.transaction [0x70000000]] := by decide

/-- Two chunks, one of them empty, and one event sent later. -/
theorem witness_HashingTransactionsReturnTheSpongeDigest :
    let chunks : List (List Byte) := [[0x61, 0x62], []]
    (∀ c ∈ chunks, c.length ≤ 65535) ∧
    (sending [.transaction [0x10000100], .transaction [0x30000002, 0x00006261], .transaction [0x30000000],
              .transaction [0x40000000], .reset none] midMessage).commandPort =
      .transaction (encode (.init .sha3 (BitVec.ofNat 16 SizeSel.s256.outputBits))) ::
        (chunks.map (fun c => HostEvent.transaction (encode (.absorb c))) ++
          (.transaction (encode .finalize) :: [.reset none])) := by decide

theorem witness_InstancesAreIsolated :
    ({ params := Config.params, instances := [midMessage, Machine.State.reset] } : System).instances[1]? = some Machine.State.reset ∧
    (0 : Nat) ≠ 1 ∧ 0 < Config.params.numInstances := ⟨rfl, by decide, by decide⟩

theorem witness_SystemKeepsItsParametersAndResetsAll :
    let sys : System := { params := { oneshot224 := false, numInstances := 2 }, instances := [midMessage, Machine.State.reset] }
    sys.Wf ∧ (∃ sys', systemStep 0 sys = .next sys') ∧ sys.instances[0]? = some midMessage :=
  ⟨rfl, ⟨_, rfl⟩, rfl⟩

/-- 65536 as a size, a CAP or a length, and 256 as an index, are just above their fields. -/
theorem witness_AssembledCommandsAreWellFormed :
    assembleLine (.rddig 255) = some [.rddig 255] ∧ 65535 < 65536 ∧ 225 ∉ [224, 256, 384, 512] ∧
    65535 < (List.replicate 65536 (0 : Byte)).length ∧ 255 < 256 :=
  ⟨by decide, by decide, by decide, by rw [List.length_replicate]; decide, by decide⟩

theorem witness_PseudoInstructionsExpand :
    midMessage.engine.stage = .absorbing ∧ (List.replicate 65535 (0 : Byte)).length ≤ 65535 :=
  ⟨rfl, by rw [List.length_replicate]⟩

end Sys2Proof.Tests
end

/-! PROOF. `MemXor` in the byte view (spec 00_scope R12, 20_memory R50). -/

namespace Sys2Proof.Machine

/-- A byte placed at byte p of a lane is that byte there and zero at every other byte. -/
theorem extractByte_shiftedByte (b : Byte) {p : Nat} (q : Nat) (hp : p < 8) :
    (b.zeroExtend 64 <<< (8 * p)).extractLsb' (8 * q) 8 = if q = p then b else 0 := by
  split
  case isTrue h =>
    subst h
    ext i hi
    have hin : 8 * q + i < 64 := by omega
    simp [hi, hin]
  case isFalse h =>
    ext i hi
    rcases Nat.lt_or_gt_of_ne h with hlt | hgt
    · have hbelow : 8 * q + i < 8 * p := by omega
      simp [hbelow]
    · have habove : 8 ≤ 8 * q + i - 8 * p := by omega
      simp [BitVec.getLsbD_of_ge b _ habove]

/-- Byte k after `MemXor(j, b)`: only byte j takes the XOR. -/
theorem stateByte_memXor (a : Lanes) (j : Nat) (b : Byte) {k : Nat} (hk : k < 200) :
    stateByte (memXor a j b) k = if k = j then stateByte a j ^^^ b else stateByte a k := by
  have hlane : k / 8 < 25 := by omega
  rw [stateByte, lane_memXor a j b hlane]
  by_cases hsame : j / 8 = k / 8
  · have hbyte : k % 8 = j % 8 ↔ k = j := by omega
    rw [if_pos hsame, BitVec.extractLsb'_xor, extractByte_shiftedByte b _ (Nat.mod_lt j (by decide))]
    by_cases hkj : k = j
    · simp [hkj, stateByte]
    · simp [hbyte, hkj, stateByte]
  · have hkj : k ≠ j := fun h => hsame (h ▸ rfl)
    rw [if_neg hsame, if_neg hkj, stateByte]

/-- Settles O8: the lane of byte j changes by the shifted byte, which is zero at the lane's other bytes. -/
theorem memXorChangesOneByte : Obligations.MemXorChangesOneByte :=
  fun a j _ b _ hk => stateByte_memXor a j b hk

/-- A shorter read gives the first bytes of a longer one. -/
theorem memRead_take (a : Lanes) (j : Nat) {m n : Nat} (h : m ≤ n) : (memRead a j n).take m = memRead a j m := by
  rw [memRead, ← List.map_take, List.take_range, Nat.min_eq_left h, memRead]

end Sys2Proof.Machine

/-! PROOF. The size table (spec 00_scope R6, R7) and the selection of a size by an operand (43_api R160, R163). -/

namespace Sys2Proof.Machine

/-- The invariants of R7. -/
theorem size_invariants (z : SizeSel) :
    z.rateBytes + z.capacityBytes = 200 ∧ z.capacityBytes = 2 * z.outputBytes ∧
    z.outputBytes ≤ z.rateBytes ∧ z.rateBytes % 8 = 0 ∧ z.outputBytes ≤ 64 := by
  cases z <;> decide

/-- Settles O9, row by row. -/
theorem sizeTableAndItsInvariants : Obligations.SizeTableAndItsInvariants :=
  ⟨by decide, by decide, by decide, by decide, size_invariants⟩

/-- A requested size of the table selects its row. -/
theorem sizeOfBits_of_outputBits {bits : Half} {z : SizeSel} (h : bits.toNat = z.outputBits) :
    sizeOfBits bits = some z := by
  have hbits : bits = BitVec.ofNat 16 z.outputBits := by rw [← h, BitVec.ofNat_toNat, BitVec.setWidth_eq]
  rw [hbits]
  cases z <;> decide

/-- ONESHOT's check depends on the parameters at 224 bits only (R163, R169). -/
theorem oneshotSize_eq_default {p : Params} {bits : Half} (cap : Half)
    (h : p.oneshot224 = true ∨ bits.toNat ≠ 224) : oneshotSize p bits cap = oneshotSize Config.params bits cap := by
  have hp : ¬(bits = 224 ∧ p.oneshot224 = false) := by
    rintro ⟨hbits, hfalse⟩
    rcases h with htrue | hne
    · simp [hfalse] at htrue
    · exact hne (by rw [hbits]; rfl)
  have hdefault : ¬(bits = 224 ∧ Config.params.oneshot224 = false) := by simp [Config.params]
  simp only [oneshotSize, if_neg hp, if_neg hdefault]

/-- Where ONESHOT_224 is false, 224 bits fail ONESHOT's check (R163). -/
theorem oneshotSize_excluded {p : Params} {bits : Half} (cap : Half) (hp : p.oneshot224 = false)
    (hbits : bits.toNat = 224) : oneshotSize p bits cap = none := by
  have h224 : bits = 224 := BitVec.eq_of_toNat_eq hbits
  have hsize : sizeOfBits bits = some .s224 := sizeOfBits_of_outputBits hbits
  simp only [oneshotSize, hsize, if_pos (And.intro h224 hp)]

/-- With the default parameters, a size of the table and a CAP within it pass ONESHOT's check (R163). -/
theorem oneshotSize_default_of_outputBits {bits cap : Half} {z : SizeSel} (hz : bits.toNat = z.outputBits)
    (hcap : cap.toNat ≤ bits.toNat / 8) : oneshotSize Config.params bits cap = some z := by
  have hdefault : ¬(bits = 224 ∧ Config.params.oneshot224 = false) := by simp [Config.params]
  simp only [oneshotSize, sizeOfBits_of_outputBits hz, if_neg hdefault, if_neg (Nat.not_lt.mpr hcap)]

end Sys2Proof.Machine

/-! PROOF. What a command does: its next state where its check passes or fails, one lemma per case, and that every
command ends with one response. -/

namespace Sys2Proof.Machine

section Results
variable {m : Mode} {bits cap : Half} {z : SizeSel} {s : State}

/-- INIT of a supported size (R160). -/
theorem exec_init_of_size (h : sizeOfBits bits = some z) :
    exec (.init m bits) s = .next ((s.setEngine (Engine.construct z m)).emit { status := .ok, data := [] }) := by
  simp only [exec, execInit, h, complete_eq]

/-- ABSORB in a stage that accepts a message (R131). -/
theorem exec_absorb_of_accepts (bytes : List Byte) (h : s.engine.stage.acceptsMessage = true) :
    exec (.absorb bytes) s = .next ((s.setEngine (s.engine.absorb bytes)).emit { status := .ok, data := [] }) := by
  simp only [exec, execAbsorb, if_pos h, complete_eq]

/-- FINALIZE in a stage that accepts a message (R142). -/
theorem exec_finalize_of_accepts (h : s.engine.stage.acceptsMessage = true) :
    exec .finalize s =
      .next ((s.setEngine s.engine.finalize).emit { status := .ok, data := s.engine.finalize.digest }) := by
  simp only [exec, execFinalize, if_pos h, complete_eq]

/-- ONESHOT whose check passes (R164). -/
theorem oneshotWith_of_size {p : Params} (bytes : List Byte) (h : oneshotSize p bits cap = some z) :
    oneshotWith p m bits cap bytes s =
      .next ((s.setEngine (Engine.hashed z m bytes)).emit
        { status := .ok, data := memRead (Engine.hashed z m bytes).lanes 0 cap.toNat }) := by
  simp only [oneshotWith, h, complete_eq]

/-- ONESHOT whose check fails (R163, R180). -/
theorem oneshotWith_of_none {p : Params} (bytes : List Byte) (h : oneshotSize p bits cap = none) :
    oneshotWith p m bits cap bytes s = .next (s.emit { status := .paramError, data := [] }) := by
  simp only [oneshotWith, h, raise_eq]

/-- The first command of a sequence runs, then the rest (R58). -/
theorem runCommands_cons_of_next {i : Instr} {t : State} (rest : List Instr) (h : exec i s = .next t) :
    runCommands (i :: rest) s = runCommands rest t := by
  simp only [runCommands, h]

end Results

/-! ### Every command answers -/

/-- `r` ends a command begun in `s`: a next state with one more response and at most the registers changed (R70, R80). -/
def Answers (s : State) (r : Result) : Prop :=
  ∃ (e : Engine) (a : Response), r = .next ((s.setEngine e).emit a)

theorem answers_complete (e : Engine) (data : List Byte) (s : State) : Answers s (complete e data s) :=
  ⟨e, _, complete_eq e data s⟩

theorem answers_respond (c : StatusCode) (data : List Byte) (s : State) : Answers s (respond c data s) :=
  ⟨s.engine, _, rfl⟩

theorem answers_raise (c : StatusCode) (s : State) : Answers s (raise c s) := answers_respond c [] s

/-- Every command of a core with any parameters ends with one response. -/
theorem answers_execWith (p : Params) (i : Instr) (s : State) : Answers s (execWith p i s) := by
  cases i with
  | init m bits =>
    simp only [execWith, execInit]
    split
    · exact answers_raise _ s
    · exact answers_complete _ _ s
  | initf m sz => exact answers_complete _ _ s
  | absorb bytes =>
    simp only [execWith, execAbsorb]
    split
    · exact answers_complete _ _ s
    · exact answers_raise _ s
  | finalize =>
    simp only [execWith, execFinalize]
    split
    · exact answers_complete _ _ s
    · exact answers_raise _ s
  | oneshot m bits cap bytes =>
    simp only [execWith, oneshotWith]
    split
    · exact answers_raise _ s
    · exact answers_complete _ _ s
  | rddig idx =>
    simp only [execWith, execRddig]
    split
    · split
      · exact answers_respond _ _ s
      · exact answers_raise _ s
    · exact answers_raise _ s
  | status => exact answers_respond _ _ s

theorem Answers.continues {s : State} {r : Result} (h : Answers s r) : Continues r :=
  let ⟨_, _, hr⟩ := h
  ⟨_, hr⟩

end Sys2Proof.Machine

/-! PROOF. ONESHOT against INIT, ABSORB and FINALIZE (spec 43_api R165). -/

namespace Sys2Proof.Machine

/-- INIT, ABSORB and FINALIZE leave ONESHOT's context and answer with its full digest (R160, R131, R142). -/
theorem runCommands_init_absorb_finalize {m : Mode} {bits : Half} {z : SizeSel} (bytes : List Byte) (s : State)
    (h : sizeOfBits bits = some z) :
    ∃ u, runCommands [.init m bits, .absorb bytes, .finalize] s = .next u ∧
      u.engine = Engine.hashed z m bytes ∧
      u.responsePort = s.responsePort ++
        [{ status := .ok, data := [] }, { status := .ok, data := [] },
          { status := .ok, data := (Engine.hashed z m bytes).digest }] := by
  rw [runCommands_cons_of_next _ (exec_init_of_size h),
    runCommands_cons_of_next _ (exec_absorb_of_accepts bytes (by rfl)),
    runCommands_cons_of_next _ (exec_finalize_of_accepts (by rfl))]
  exact ⟨_, rfl, rfl, by simp [Engine.hashed]⟩

/-- The context of a ONESHOT has the selected size. -/
@[simp] theorem hashed_sizeSel (z : SizeSel) (m : Mode) (bytes : List Byte) :
    (Engine.hashed z m bytes).sizeSel = z := by
  rw [Engine.hashed, finalize_sizeSel, absorb_sizeSel, Engine.construct]

/-- Settles O45: both ways end in the context `Engine.hashed z m bytes`, and ONESHOT's CAP bytes are the digest's
first. -/
theorem oneshotIsInitAbsorbFinalizeTruncated : Obligations.OneshotIsInitAbsorbFinalizeTruncated := by
  intro m bits cap bytes s z hz hcap
  obtain ⟨u, hrun, hengine, hresponses⟩ :=
    runCommands_init_absorb_finalize (m := m) bytes s (sizeOfBits_of_outputBits hz)
  have hcap' : cap.toNat ≤ (Engine.hashed z m bytes).sizeSel.outputBytes := by
    rwa [hashed_sizeSel, SizeSel.outputBytes, ← hz]
  refine ⟨_, u, (Engine.hashed z m bytes).digest,
    oneshotWith_of_size bytes (oneshotSize_default_of_outputBits hz hcap), hrun, hengine.symm,
    by simp, hresponses, ?_⟩
  rw [Engine.digest, memRead_take _ _ hcap', State.emit_responsePort, State.setEngine_responsePort]

end Sys2Proof.Machine

/-! PROOF. A core built with any parameters (spec 00_scope R9, R21): its commands, its steps and its runs. -/

namespace Sys2Proof.Machine

/-! ### Commands -/

/-- The parameters reach a 224-bit ONESHOT alone (R169, R181). -/
theorem execWith_eq_exec {p : Params} {i : Instr} (s : State)
    (h : p.oneshot224 = true ∨ ∀ m bits cap bytes, i = .oneshot m bits cap bytes → bits.toNat ≠ 224) :
    execWith p i s = exec i s := by
  cases i with
  | oneshot m bits cap bytes =>
    have hbits : p.oneshot224 = true ∨ bits.toNat ≠ 224 := h.imp_right fun hne => hne m bits cap bytes rfl
    simp only [execWith, exec, execOneshot, oneshotWith, oneshotSize_eq_default cap hbits]
  | init | initf | absorb | finalize | rddig | status => rfl

/-! ### Steps -/

theorem takeEvent_of_command (run : Instr → State → Result) {s : State} {ws : Transaction} {rest : List HostEvent}
    {i : Instr} (hport : s.commandPort = .transaction ws :: rest) (hi : decode ws = .cmd i) :
    takeEvent run s = run i (s.setCommands rest) := by
  simp only [takeEvent, hport, runTransaction, hi]

/-- An event that is no command is handled without running one: idle, a reset, or a rejected transaction. -/
theorem takeEvent_of_noCommand (run run' : Instr → State → Result) {s : State}
    (h : ∀ ws rest i, s.commandPort = .transaction ws :: rest → decode ws ≠ .cmd i) :
    takeEvent run s = takeEvent run' s := by
  match hport : s.commandPort with
  | [] => simp only [takeEvent, hport]
  | .reset _ :: rest => simp only [takeEvent, hport]
  | .transaction ws :: rest =>
    match hd : decode ws with
    | .cmd i => exact absurd hd (h ws rest i hport)
    | .illegal e => simp only [takeEvent, hport, runTransaction, hd]

/-- A step goes on whatever its event is, where every command does. -/
theorem takeEvent_continues {run : Instr → State → Result} (hrun : ∀ i s, Continues (run i s)) (s : State) :
    Continues (takeEvent run s) := by
  match hport : s.commandPort with
  | [] => exact ⟨s, by simp only [takeEvent, hport, idle]⟩
  | .reset _ :: rest => exact ⟨_, by simp only [takeEvent, hport, takeReset]; rfl⟩
  | .transaction ws :: rest =>
    match hd : decode ws with
    | .cmd i =>
      rw [takeEvent_of_command run hport hd]
      exact hrun i _
    | .illegal e => exact ⟨_, by simp only [takeEvent, hport, runTransaction, hd, rejectTransaction, raise_eq]; rfl⟩

theorem stepWith_continues (p : Params) (s : State) : Continues (stepWith p s) :=
  takeEvent_continues (fun i t => (answers_execWith p i t).continues) s

/-! ### Runs -/

/-- A run whose first step goes on is the rest of the run from there (R210). -/
theorem coreRun_succ_of_next {M : Host.Core} {s t : M.State} (n : Nat) (h : M.step s = .next t) :
    M.run (n + 1) s = M.run n t := by
  simp only [Host.Core.run, h]

/-- A run of a core built with the parameters p never stops (60_exceptions R196). -/
theorem runStepsWith_continues (p : Params) (n : Nat) (s : State) : Continues (runStepsWith p n s) := by
  induction n generalizing s with
  | zero => exact ⟨s, rfl⟩
  | succ n ih =>
    obtain ⟨t, ht⟩ := stepWith_continues p s
    have hrun : runStepsWith p (n + 1) s = runStepsWith p n t := coreRun_succ_of_next (M := coreWith p) n ht
    exact hrun ▸ ih t

/-- Settles O53: the parameter is read by ONESHOT's check alone, and every command ends with a response. -/
theorem parameterChangesOnlyThe224BitOneshot : Obligations.ParameterChangesOnlyThe224BitOneshot := fun p =>
  ⟨fun _ s h => execWith_eq_exec s h,
   fun hp _ _ cap bytes _ hbits => oneshotWith_of_none bytes (oneshotSize_excluded cap hp hbits),
   fun _ _ _ _ hport hi => takeEvent_of_command (execWith p) hport hi,
   fun _ h => takeEvent_of_noCommand (execWith p) exec h,
   runStepsWith_continues p⟩

end Sys2Proof.Machine

/-! PROOF. A system of several instances (spec 00_scope R9, 20_memory R62, 70_reset_and_hazards R200). -/

namespace Sys2Proof.Machine

/-- A system starts with the instances of its parameters (R193). -/
theorem systemReset_wf (p : Params) : (systemReset p).Wf := by
  rw [System.Wf, systemReset_instances, List.length_replicate, systemReset_params]

/-- A step keeps the parameters (R21) and the number of instances. -/
theorem systemStep_keeps {k : Nat} {sys sys' : System} (h : systemStep k sys = .next sys') :
    sys'.params = sys.params ∧ sys'.instances.length = sys.instances.length := by
  rcases systemStep_cases k sys with ⟨-, hs⟩ | ⟨_, -, ⟨t, -, hs⟩ | ⟨_, -, hs⟩ | ⟨_, -, hs⟩⟩ <;>
    rw [hs] at h <;> cases h
  · exact ⟨rfl, rfl⟩
  · exact ⟨rfl, List.length_set⟩

/-- A reset of the system keeps the number of instances. -/
theorem systemAssertReset_wf {sys : System} (h : sys.Wf) : (systemAssertReset sys).Wf := by
  rw [System.Wf, systemAssertReset_instances, List.length_map, systemAssertReset_params, h]

/-- A reset of the system puts the registers of each of its cores at their reset values and leaves the ports (R200). -/
theorem systemAssertReset_getElem? {sys : System} {k : Nat} {s : State} (h : sys.instances[k]? = some s) :
    (systemAssertReset sys).instances[k]? = some (s.setEngine Engine.reset) := by
  rw [systemAssertReset_instances, List.getElem?_map, h, Option.map_some]

/-- Settles O54, from what the start, a step and a reset each do to the parameters and the instances. -/
theorem systemKeepsItsParametersAndResetsAll : Obligations.SystemKeepsItsParametersAndResetsAll := by
  refine ⟨fun p => ⟨rfl, systemReset_wf p, ?start⟩, ?step, fun sys hwf =>
    ⟨systemAssertReset_wf hwf, rfl, fun _ _ hs => systemAssertReset_getElem? hs⟩⟩
  case start => exact systemReset_wf p ▸ p.atLeastOne
  case step =>
    intro k sys sys' hwf h
    obtain ⟨hparams, hlength⟩ := systemStep_keeps h
    exact ⟨by rw [System.Wf, hlength, hparams, hwf], hparams⟩

end Sys2Proof.Machine

/-! PROOF. The remaining results of commands (checks that fail, INITF and the reads), what constructions and the other
commands write, and the results of a step. -/

namespace Sys2Proof.Machine

section Results
variable {m : Mode} {bits : Half} {s : State}

/-- INIT of an unsupported size (R160, R180). -/
theorem exec_init_of_none (h : sizeOfBits bits = none) :
    exec (.init m bits) s = .next (s.emit { status := .paramError, data := [] }) := by
  simp only [exec, execInit, h, raise_eq]

/-- INITF cannot fail (R162). -/
theorem exec_initf (m : Mode) (sz : SizeSel) (s : State) :
    exec (.initf m sz) s = .next ((s.setEngine (Engine.construct sz m)).emit { status := .ok, data := [] }) := rfl

/-- ABSORB in a stage that accepts no message (R131, R180). -/
theorem exec_absorb_of_rejects (bytes : List Byte) (h : s.engine.stage.acceptsMessage = false) :
    exec (.absorb bytes) s = .next (s.emit { status := .precondition, data := [] }) := by
  simp [exec, execAbsorb, h, raise_eq]

/-- FINALIZE in a stage that accepts no message (R142, R180). -/
theorem exec_finalize_of_rejects (h : s.engine.stage.acceptsMessage = false) :
    exec .finalize s = .next (s.emit { status := .precondition, data := [] }) := by
  simp [exec, execFinalize, h, raise_eq]

/-- A Finalized context accepts no message (R131, R142). -/
theorem rejects_of_finalized (h : s.engine.stage = .finalized) : s.engine.stage.acceptsMessage = false := by
  rw [h, Stage.acceptsMessage]

/-- RDDIG of a byte of the digest (R146). -/
theorem exec_rddig_of_lt {idx : Byte} (hs : s.engine.stage = .finalized)
    (h : idx.toNat < s.engine.sizeSel.outputBytes) :
    exec (.rddig idx) s = .next (s.emit { status := .ok, data := [stateByte s.engine.lanes idx.toNat] }) := by
  simp only [exec, execRddig, if_pos hs, if_pos h, respond]

/-- RDDIG past the digest (R146, R185). -/
theorem exec_rddig_of_ge {idx : Byte} (hs : s.engine.stage = .finalized)
    (h : s.engine.sizeSel.outputBytes ≤ idx.toNat) :
    exec (.rddig idx) s = .next (s.emit { status := .paramError, data := [] }) := by
  simp only [exec, execRddig, if_pos hs, if_neg (Nat.not_lt.mpr h), raise_eq]

/-- RDDIG of a context that is not Finalized (R146, R185). -/
theorem exec_rddig_of_not_finalized {idx : Byte} (hs : s.engine.stage ≠ .finalized) :
    exec (.rddig idx) s = .next (s.emit { status := .precondition, data := [] }) := by
  simp only [exec, execRddig, if_neg hs, raise_eq]

/-- STATUS answers with the status word and writes nothing (R166). -/
theorem exec_status (s : State) :
    exec .status s = .next (s.emit { status := .ok, data := wordBytes (statusWord s.engine) }) := rfl

end Results

/-! ### Constructions, and the commands that construct nothing -/

/-- A construction reads no register: either from every state it answers OK with the same engine and the same response,
or from every state it answers PARAM_ERROR (R160 to R164). -/
theorem exec_of_constructs {i : Instr} (hc : constructs i = true) :
    (∃ e data, ∀ s, exec i s = .next ((s.setEngine e).emit { status := .ok, data := data })) ∨
    (∀ s, exec i s = .next (s.emit { status := .paramError, data := [] })) := by
  cases i with
  | init m bits =>
    cases hz : sizeOfBits bits with
    | none => exact .inr fun _ => exec_init_of_none hz
    | some z => exact .inl ⟨_, _, fun _ => exec_init_of_size hz⟩
  | initf m sz => exact .inl ⟨_, _, exec_initf m sz⟩
  | oneshot m bits cap bytes =>
    cases hz : oneshotSize Config.params bits cap with
    | none => exact .inr fun _ => oneshotWith_of_none bytes hz
    | some z => exact .inl ⟨_, _, fun _ => oneshotWith_of_size bytes hz⟩
  | absorb | finalize | rddig | status => simp [constructs] at hc

/-- RDDIG writes no register, whatever it answers (R57). -/
theorem exec_rddig_emits (idx : Byte) (s : State) : ∃ r, exec (.rddig idx) s = .next (s.emit r) := by
  by_cases hs : s.engine.stage = .finalized
  · rcases Nat.lt_or_ge idx.toNat s.engine.sizeSel.outputBytes with hlt | hge
    · exact ⟨_, exec_rddig_of_lt hs hlt⟩
    · exact ⟨_, exec_rddig_of_ge hs hge⟩
  · exact ⟨_, exec_rddig_of_not_finalized hs⟩

/-- A command that constructs no context leaves `mode` and `sizeSel` as they are (R25, R26). -/
theorem exec_keeps_mode_sizeSel {i : Instr} (hc : constructs i = false) (s : State) :
    ∃ e r, exec i s = .next ((s.setEngine e).emit r) ∧ e.mode = s.engine.mode ∧ e.sizeSel = s.engine.sizeSel := by
  cases i with
  | init | initf | oneshot => simp [constructs] at hc
  | absorb bytes =>
    cases hs : s.engine.stage.acceptsMessage with
    | false => exact ⟨s.engine, _, exec_absorb_of_rejects bytes hs, rfl, rfl⟩
    | true => exact ⟨_, _, exec_absorb_of_accepts bytes hs, absorb_mode _ _, absorb_sizeSel _ _⟩
  | finalize =>
    cases hs : s.engine.stage.acceptsMessage with
    | false => exact ⟨s.engine, _, exec_finalize_of_rejects hs, rfl, rfl⟩
    | true => exact ⟨_, _, exec_finalize_of_accepts hs, finalize_mode _, finalize_sizeSel _⟩
  | rddig idx =>
    obtain ⟨r, hr⟩ := exec_rddig_emits idx s
    exact ⟨s.engine, r, hr, rfl, rfl⟩
  | status => exact ⟨s.engine, _, exec_status s, rfl, rfl⟩

/-- Settles O33: a construction that fails writes nothing, and no other command writes `mode` or `sizeSel`. -/
theorem modeAndSizeChangeOnlyByConstruction : Obligations.ModeAndSizeChangeOnlyByConstruction := by
  intro i s t hexec hchanged
  cases hc : constructs i with
  | true =>
    rcases exec_of_constructs hc with ⟨e, data, hok⟩ | herror
    · cases (hok s).symm.trans hexec
      exact ⟨rfl, by simp⟩
    · cases (herror s).symm.trans hexec
      simp at hchanged
  | false =>
    obtain ⟨e, r, hkeeps, hmode, hsize⟩ := exec_keeps_mode_sizeSel hc s
    cases hkeeps.symm.trans hexec
    simp [hmode, hsize] at hchanged

/-! ### Steps -/

theorem step_of_command {s : State} {ws : Transaction} {rest : List HostEvent} {i : Instr}
    (hport : s.commandPort = .transaction ws :: rest) (hi : decode ws = .cmd i) :
    step s = exec i (s.setCommands rest) :=
  takeEvent_of_command exec hport hi

/-- A transaction that spells no command is consumed whole (R183). -/
theorem step_of_illegal {s : State} {ws : Transaction} {rest : List HostEvent} {err : DecodeError}
    (hport : s.commandPort = .transaction ws :: rest) (herr : decode ws = .illegal err) :
    step s = .next ((s.setCommands rest).emit { status := .illegalCommand, data := [] }) := by
  rw [step_of_transaction hport]
  simp only [runTransaction, herr, rejectTransaction, raise_eq]

/-- No step stops the machine (60_exceptions R196). -/
theorem step_continues (s : State) : Continues (step s) :=
  stepWith_default ▸ stepWith_continues Config.params s

end Sys2Proof.Machine

/-! PROOF. The status word (spec 10_state R30), STATUS (43_api R166) and the reset values (10_state R33). -/

namespace Sys2Proof.Machine

/-- A field placed at bit p of a word is read back at p. -/
theorem extract_shiftedField_same {n : Nat} (x : BitVec n) {p : Nat} (h : p + n ≤ 32) :
    (x.zeroExtend 32 <<< p).extractLsb' p n = x := by
  ext i hi
  have hin : p + i < 32 := by omega
  simp [hin, BitVec.getLsbD_eq_getElem hi]

/-- A field placed at bit p of a word leaves 0 above and below it. -/
theorem extract_shiftedField_disjoint {n : Nat} (x : BitVec n) {p q k : Nat} (h : q + k ≤ p ∨ p + n ≤ q) :
    (x.zeroExtend 32 <<< p).extractLsb' q k = 0 := by
  ext i hi
  rcases h with hbelow | habove
  · have hlt : q + i < p := by omega
    simp [hlt]
  · have hge : n ≤ q + i - p := by omega
    simp [BitVec.getLsbD_of_ge x _ hge]

/-- The fields of `stage | mode << 2 | sizeSel << 3`: each is read back in its place, and nothing stands above (R30). -/
theorem extract_packedFields (g : BitVec 2) (m : BitVec 1) (z : BitVec 2) :
    let w : Word := g.zeroExtend 32 ||| (m.zeroExtend 32 <<< 2) ||| (z.zeroExtend 32 <<< 3)
    w.extractLsb' 0 2 = g ∧ w.extractLsb' 2 1 = m ∧ w.extractLsb' 3 2 = z ∧ w.extractLsb' 5 27 = 0 := by
  have hg : g.zeroExtend 32 = g.zeroExtend 32 <<< 0 := (BitVec.shiftLeft_zero _).symm
  rw [hg]
  simp (disch := omega) only [BitVec.extractLsb'_or, extract_shiftedField_same, extract_shiftedField_disjoint]
  simp

theorem statusWord_of_noContext {e : Engine} (h : e.stage = .noContext) : statusWord e = 0 := if_pos h

theorem statusWord_of_context {e : Engine} (h : e.stage ≠ .noContext) :
    statusWord e =
      e.stage.code.zeroExtend 32 ||| (e.mode.code.zeroExtend 32 <<< 2) ||| (e.sizeSel.code.zeroExtend 32 <<< 3) :=
  if_neg h

/-- Settles O29: the response is `exec_status`'s, and the fields are those packed into the word, or 0 in NoContext. -/
theorem statusResult : Obligations.StatusResult := by
  intro s
  refine ⟨statusWord s.engine, exec_status s, ?_⟩
  by_cases hs : s.engine.stage = .noContext
  · have hzero := statusWord_of_noContext hs
    exact ⟨by rw [hzero, hs]; rfl, by rw [hzero]; rfl, fun _ => hzero, fun hne => absurd hs hne⟩
  · obtain ⟨hstage, hmode, hsize, habove⟩ :=
      extract_packedFields s.engine.stage.code s.engine.mode.code s.engine.sizeSel.code
    rw [statusWord_of_context hs]
    exact ⟨hstage, habove, fun h => absurd h hs, fun _ => ⟨hmode, hsize⟩⟩

/-- Settles O36, register by register. -/
theorem resetValues : Obligations.ResetValues :=
  ⟨fun i _ => lane_zeroLanes i, rfl, rfl, rfl, rfl, statusWord_of_noContext rfl⟩

end Sys2Proof.Machine

/-! PROOF. What a host can observe of a finalized context (spec 10_state R31, 20_memory R53). -/

namespace Sys2Proof.Machine

/-- The Finalized case of `SameVisible`: the same ports, mode, size and digest. -/
structure SameFinalized (s t : State) : Prop where
  commandPort : s.commandPort = t.commandPort
  responsePort : s.responsePort = t.responsePort
  stage_left : s.engine.stage = .finalized
  stage_right : t.engine.stage = .finalized
  mode : s.engine.mode = t.engine.mode
  sizeSel : s.engine.sizeSel = t.engine.sizeSel
  digest : s.engine.digest = t.engine.digest

theorem sameVisible_iff {s t : State} : SameVisible s t ↔ s = t ∨ SameFinalized s t :=
  or_congr_right
    ⟨fun ⟨hc, hr, hs, ht, hm, hz, hd⟩ => ⟨hc, hr, hs, ht, hm, hz, hd⟩,
     fun ⟨hc, hr, hs, ht, hm, hz, hd⟩ => ⟨hc, hr, hs, ht, hm, hz, hd⟩⟩

/-- A byte below the output length is a byte of the digest (R144). -/
theorem digest_getElem? {e : Engine} {k : Nat} (h : k < e.sizeSel.outputBytes) :
    e.digest[k]? = some (stateByte e.lanes k) := by
  simp [Engine.digest, memRead, h]

namespace SameFinalized
variable {s t : State}

theorem sameVisible (h : SameFinalized s t) : SameVisible s t := sameVisible_iff.mpr (.inr h)

theorem setCommands (h : SameFinalized s t) (q : List HostEvent) :
    SameFinalized (s.setCommands q) (t.setCommands q) :=
  { h with commandPort := rfl }

theorem emit (h : SameFinalized s t) (r : Response) : SameFinalized (s.emit r) (t.emit r) :=
  { h with responsePort := congrArg (· ++ [r]) h.responsePort }

/-- Nothing is left of the difference once the registers are written. -/
theorem setEngine_eq (h : SameFinalized s t) (e : Engine) : s.setEngine e = t.setEngine e :=
  State.eq_of_fields rfl h.commandPort h.responsePort

theorem stateByte_eq (h : SameFinalized s t) {k : Nat} (hk : k < s.engine.sizeSel.outputBytes) :
    stateByte s.engine.lanes k = stateByte t.engine.lanes k := by
  rw [← Option.some_inj, ← digest_getElem? hk, ← digest_getElem? (h.sizeSel ▸ hk), h.digest]

theorem statusWord_eq (h : SameFinalized s t) : statusWord s.engine = statusWord t.engine := by
  simp only [statusWord, h.stage_left, h.stage_right, h.mode, h.sizeSel]

/-- A command that constructs no context writes no register of a Finalized one (R145), and its answer is read from the
stage, mode, size and digest alone. -/
theorem exec_answers_alike (h : SameFinalized s t) {i : Instr} (hc : constructs i = false) :
    ∃ r, exec i s = .next (s.emit r) ∧ exec i t = .next (t.emit r) := by
  cases i with
  | init | initf | oneshot => simp [constructs] at hc
  | absorb bytes =>
    exact ⟨_, exec_absorb_of_rejects bytes (rejects_of_finalized h.stage_left),
      exec_absorb_of_rejects bytes (rejects_of_finalized h.stage_right)⟩
  | finalize =>
    exact ⟨_, exec_finalize_of_rejects (rejects_of_finalized h.stage_left),
      exec_finalize_of_rejects (rejects_of_finalized h.stage_right)⟩
  | rddig idx =>
    rcases Nat.lt_or_ge idx.toNat s.engine.sizeSel.outputBytes with hlt | hge
    · refine ⟨_, exec_rddig_of_lt h.stage_left hlt, ?_⟩
      rw [exec_rddig_of_lt h.stage_right (h.sizeSel ▸ hlt), h.stateByte_eq hlt]
    · exact ⟨_, exec_rddig_of_ge h.stage_left hge, exec_rddig_of_ge h.stage_right (h.sizeSel ▸ hge)⟩
  | status =>
    refine ⟨_, exec_status s, ?_⟩
    rw [exec_status, h.statusWord_eq]

/-- A construction makes the two states equal or fails on both; any other command answers both alike. -/
theorem exec_sameVisible (h : SameFinalized s t) (i : Instr) :
    ∃ s' t', exec i s = .next s' ∧ exec i t = .next t' ∧ SameVisible s' t' := by
  cases hc : constructs i with
  | true =>
    rcases exec_of_constructs hc with ⟨e, data, hok⟩ | herror
    · exact ⟨_, _, hok s, hok t, .inl (by rw [h.setEngine_eq])⟩
    · exact ⟨_, _, herror s, herror t, (h.emit _).sameVisible⟩
  | false =>
    obtain ⟨r, hs, ht⟩ := h.exec_answers_alike hc
    exact ⟨_, _, hs, ht, (h.emit r).sameVisible⟩

/-- The same event comes next on both command ports: none, a reset, a command or an illegal transaction. -/
theorem step_sameVisible (h : SameFinalized s t) :
    ∃ s' t', step s = .next s' ∧ step t = .next t' ∧ SameVisible s' t' := by
  match hs : s.commandPort with
  | [] => exact ⟨s, t, step_of_empty hs, step_of_empty (h.commandPort ▸ hs), h.sameVisible⟩
  | .reset _ :: rest =>
    exact ⟨_, _, step_of_reset hs, step_of_reset (h.commandPort ▸ hs), .inl ((h.setCommands rest).setEngine_eq _)⟩
  | .transaction ws :: rest =>
    have ht : t.commandPort = .transaction ws :: rest := h.commandPort ▸ hs
    match hd : decode ws with
    | .cmd i =>
      rw [step_of_command hs hd, step_of_command ht hd]
      exact (h.setCommands rest).exec_sameVisible i
    | .illegal _ =>
      exact ⟨_, _, step_of_illegal hs hd, step_of_illegal ht hd, ((h.setCommands rest).emit _).sameVisible⟩

end SameFinalized

/-- Settles O42: equal states step alike, and `SameFinalized` states by the event that comes next. -/
theorem bytesPastTheDigestAreUnobservable : Obligations.BytesPastTheDigestAreUnobservable := by
  intro s t h
  rcases sameVisible_iff.mp h with rfl | hfinal
  · obtain ⟨u, hu⟩ := step_continues s
    exact ⟨u, u, hu, hu, .inl rfl⟩
  · exact hfinal.step_sameVisible

end Sys2Proof.Machine

/-! PROOF. The byte view of the lanes (spec 20_memory R50): a byte's bits in its lane, and a lane's bits in its bytes. -/

namespace Sys2Proof.Machine

/-- Bit k of byte j is bit 8*(j mod 8)+k of lane j div 8 (R50). -/
theorem stateByte_getLsbD (a : Lanes) (j : Nat) {k : Nat} (hk : k < 8) :
    (stateByte a j).getLsbD k = (lane a (j / 8)).getLsbD (8 * (j % 8) + k) := by
  simp [stateByte, hk]

theorem laneOfBytes_cons (b : Byte) (bs : List Byte) :
    laneOfBytes (b :: bs) = b.zeroExtend 64 ||| (laneOfBytes bs <<< 8) := rfl

/-- Bit k of a lane made of bytes is bit k mod 8 of byte k div 8; a byte that is not there counts as zero. -/
theorem laneOfBytes_getLsbD (bs : List Byte) {k : Nat} (hk : k < 64) :
    (laneOfBytes bs).getLsbD k = (bs.getD (k / 8) 0).getLsbD (k % 8) := by
  induction bs generalizing k with
  | nil => simp [laneOfBytes]
  | cons b bs ih =>
    rw [laneOfBytes_cons]
    rcases Nat.lt_or_ge k 8 with hfirst | hlater
    · simp [hfirst, hk, Nat.div_eq_of_lt hfirst, Nat.mod_eq_of_lt hfirst]
    · have hbyte : k / 8 = (k - 8) / 8 + 1 := by omega
      have hbit : k % 8 = (k - 8) % 8 := by omega
      have hin : k - 8 < 64 := by omega
      rw [hbyte, hbit, List.getD_cons_succ, ← ih hin]
      simp [hk, hin, Nat.not_lt.mpr hlater, BitVec.getLsbD_of_ge b k hlater]

theorem memRead_getD (a : Lanes) (j : Nat) {n k : Nat} (hk : k < n) :
    (memRead a j n).getD k 0 = stateByte a (j + k) := by
  simp [memRead, hk]

/-- A lane is its eight bytes, the first least significant (R50). -/
theorem laneOfBytes_memRead (a : Lanes) (i : Nat) : laneOfBytes (memRead a (8 * i) 8) = lane a i := by
  apply BitVec.eq_of_getLsbD_eq
  intro k hk
  have hlane : (8 * i + k / 8) / 8 = i := by omega
  have hbit : 8 * ((8 * i + k / 8) % 8) + k % 8 = k := by omega
  rw [laneOfBytes_getLsbD _ hk, memRead_getD a _ (by omega), stateByte_getLsbD a _ (Nat.mod_lt k (by decide)),
    hlane, hbit]

/-- Settles O7, bit by bit. -/
theorem byteViewIsLittleEndian : Obligations.ByteViewIsLittleEndian := fun a =>
  ⟨fun j _ _ hk => stateByte_getLsbD a j hk, fun i _ => (laneOfBytes_memRead a i).symm⟩

end Sys2Proof.Machine

/-! PROOF. Events are handled in order (spec 20_memory R58): a command, a step and a run read the registers and the events
they take, and not what the ports hold besides. -/

namespace Sys2Proof.Machine

/-- Settles O34: it is the step of a command. -/
theorem stepRunsTheDecodedCommand : Obligations.StepRunsTheDecodedCommand :=
  fun _ _ _ _ hport hi => step_of_command hport hi

/-- What a command writes to the registers and what it answers depend on the registers alone, whatever the ports hold. -/
theorem exec_reads_engine (i : Instr) (e : Engine) :
    ∃ e' r, ∀ s : State, s.engine = e → exec i s = .next ((s.setEngine e').emit r) := by
  cases hc : constructs i with
  | true =>
    rcases exec_of_constructs hc with ⟨e', data, hok⟩ | herror
    · exact ⟨e', _, fun s _ => hok s⟩
    · exact ⟨e, _, by rintro s rfl; exact herror s⟩
  | false =>
    cases i with
    | init | initf | oneshot => simp [constructs] at hc
    | absorb bytes =>
      cases hstage : e.stage.acceptsMessage with
      | false => exact ⟨e, _, by rintro s rfl; exact exec_absorb_of_rejects bytes hstage⟩
      | true => exact ⟨e.absorb bytes, _, by rintro s rfl; exact exec_absorb_of_accepts bytes hstage⟩
    | finalize =>
      cases hstage : e.stage.acceptsMessage with
      | false => exact ⟨e, _, by rintro s rfl; exact exec_finalize_of_rejects hstage⟩
      | true =>
        exact ⟨e.finalize, { status := .ok, data := e.finalize.digest },
          by rintro s rfl; exact exec_finalize_of_accepts hstage⟩
    | rddig idx =>
      by_cases hstage : e.stage = .finalized
      · rcases Nat.lt_or_ge idx.toNat e.sizeSel.outputBytes with hlt | hge
        · exact ⟨e, { status := .ok, data := [stateByte e.lanes idx.toNat] },
            by rintro s rfl; exact exec_rddig_of_lt hstage hlt⟩
        · exact ⟨e, _, by rintro s rfl; exact exec_rddig_of_ge hstage hge⟩
      · exact ⟨e, _, by rintro s rfl; exact exec_rddig_of_not_finalized hstage⟩
    | status =>
      exact ⟨e, { status := .ok, data := wordBytes (statusWord e) }, by rintro s rfl; exact exec_status s⟩

/-- A step takes the first event; what that does to the registers and appends to the responses depends on the registers
and the event alone. -/
theorem step_reads_event (ev : HostEvent) (e : Engine) :
    ∃ e' rs, ∀ (s : State) (rest : List HostEvent), s.engine = e → s.commandPort = ev :: rest →
      step s = .next { engine := e', commandPort := rest, responsePort := s.responsePort ++ rs } := by
  cases ev with
  | reset cut =>
    refine ⟨Engine.reset, [], fun s rest _ hport => ?_⟩
    rw [step_of_reset hport, takeReset, List.append_nil]
    rfl
  | transaction ws =>
    cases hd : decode ws with
    | cmd i =>
      obtain ⟨e', r, hexec⟩ := exec_reads_engine i e
      refine ⟨e', [r], fun s rest he hport => ?_⟩
      rw [step_of_command hport hd, hexec (s.setCommands rest) he]
      rfl
    | illegal err => exact ⟨e, [_], by rintro s rest rfl hport; exact step_of_illegal hport hd⟩

theorem runSteps_succ_of_next {s t : State} (n : Nat) (h : step s = .next t) : runSteps (n + 1) s = runSteps n t :=
  coreRun_succ_of_next (M := core) n h

/-- A run over the first events of a queue leaves the later ones, and what it does to the registers and appends to the
responses depends on the registers and those first events alone. -/
theorem runSteps_reads_events (first : List HostEvent) (e : Engine) :
    ∃ e' rs, ∀ (s : State) (later : List HostEvent), s.engine = e → s.commandPort = first ++ later →
      runSteps first.length s = .next { engine := e', commandPort := later, responsePort := s.responsePort ++ rs } := by
  induction first generalizing e with
  | nil =>
    refine ⟨e, [], ?_⟩
    rintro s later rfl (rfl : s.commandPort = later)
    rw [List.append_nil]
    rfl
  | cons ev first ih =>
    obtain ⟨e₁, rs₁, hstep⟩ := step_reads_event ev e
    obtain ⟨e₂, rs₂, hrun⟩ := ih e₁
    refine ⟨e₂, rs₁ ++ rs₂, fun s later he hport => ?_⟩
    rw [List.length_cons, runSteps_succ_of_next _ (hstep s (first ++ later) he hport), hrun _ later rfl rfl,
      List.append_assoc]

/-- Settles O47: the run over the first events, once with the later events behind them and once with none. -/
theorem earlierEventsDoNotDependOnLaterOnes : Obligations.EarlierEventsDoNotDependOnLaterOnes := by
  intro s first later hport
  obtain ⟨e, rs, hrun⟩ := runSteps_reads_events first s.engine
  exact ⟨_, _, hrun s later rfl hport, hrun _ [] rfl (List.append_nil first).symm, rfl, rfl, rfl, rfl⟩

end Sys2Proof.Machine

/-! PROOF. The instances of a system are isolated (spec 20_memory R62): a step of one modifies its own entry alone. -/

namespace Sys2Proof.Machine

/-- The state after a step of a core built with the parameters p. -/
def stepState (p : Params) (s : State) : State :=
  match stepWith p s with
  | .next t => t
  | .fault _ | .refused _ => s

/-- No step stops a core (60_exceptions R196), so every step ends in that state. -/
theorem stepWith_eq_next (p : Params) (s : State) : stepWith p s = .next (stepState p s) := by
  obtain ⟨t, ht⟩ := stepWith_continues p s
  simp only [stepState, ht]

/-- A step of instance k modifies the entry k of the system, where there is one, and nothing else. -/
theorem systemStep_eq_modify (k : Nat) (sys : System) :
    systemStep k sys = .next { sys with instances := sys.instances.modify k (stepState sys.params) } := by
  rw [List.modify_eq_set_getElem?]
  cases hk : sys.instances[k]? with
  | none => simp [systemStep, hk]
  | some s => simp [systemStep, hk, stepWith_eq_next]

/-- Settles O49: a step modifies one entry of the list of instances, and modifications of two entries commute. -/
theorem instancesAreIsolated : Obligations.InstancesAreIsolated := by
  refine ⟨fun sys k => ⟨_, systemStep_eq_modify k sys, List.length_modify .., ?others, ?own⟩, ?commute, ?start⟩
  case others =>
    intro j hj
    simp [hj.symm]
  case own =>
    intro s hs
    exact ⟨_, stepWith_eq_next sys.params s, by simp [hs]⟩
  case commute =>
    intro sys j k hjk
    refine ⟨_, _, _, systemStep_eq_modify j sys, systemStep_eq_modify k _, systemStep_eq_modify k sys, ?_⟩
    rw [systemStep_eq_modify, List.modify_modify_ne _ _ _ hjk]
  case start =>
    intro p k hk
    simp [hk]

end Sys2Proof.Machine

/-! PROOF. The fields of a word (spec 30_encoding R71, R82): a field is what a mask of ones selects, and a word is put
together from its fields. -/

namespace Sys2Proof.Machine

/-- n ones from bit p upward. -/
def fieldMask (p n : Nat) : Word := (BitVec.allOnes n).zeroExtend 32 <<< p

/-- A mask selects a field and leaves it in its place. -/
theorem and_fieldMask (w : Word) (p n : Nat) : w &&& fieldMask p n = (w.extractLsb' p n).zeroExtend 32 <<< p := by
  ext i hi
  rcases Nat.lt_or_ge i p with hbelow | hge
  · simp [fieldMask, hbelow]
  · have hpos : p + (i - p) = i := by omega
    have hin : i - p < 32 := by omega
    simp [fieldMask, hi, hin, Nat.not_lt.mpr hge, hpos, Bool.and_comm, ← BitVec.getLsbD_eq_getElem]

/-- A masked word is a given field's placement exactly when its own field is that one. -/
theorem and_fieldMask_eq_iff (w : Word) {p n : Nat} (x : BitVec n) (h : p + n ≤ 32) :
    w &&& fieldMask p n = x.zeroExtend 32 <<< p ↔ w.extractLsb' p n = x := by
  rw [and_fieldMask]
  refine ⟨fun heq => ?_, fun heq => by rw [heq]⟩
  rw [← extract_shiftedField_same (w.extractLsb' p n) h, heq, extract_shiftedField_same x h]

theorem and_fieldMask_eq_zero_iff (w : Word) {p n : Nat} (h : p + n ≤ 32) :
    w &&& fieldMask p n = 0 ↔ w.extractLsb' p n = 0 := by
  simpa using and_fieldMask_eq_iff w 0 h

/-- A word is masked to nothing by two masks exactly when each masks it to nothing. -/
theorem and_or_eq_zero_iff (w a b : Word) : w &&& (a ||| b) = 0 ↔ w &&& a = 0 ∧ w &&& b = 0 := by
  rw [BitVec.and_or_distrib_left]
  exact BitVec.or_eq_zero_iff

/-! ### The reserved bits of W0 are fields (R73 to R79) -/

theorem reserved_init (w : Word) : w &&& reservedMask 1 = 0 ↔ w.extractLsb' 17 11 = 0 :=
  and_fieldMask_eq_zero_iff w (p := 17) (n := 11) (by decide)

theorem reserved_initf (w : Word) :
    w &&& reservedMask 2 = 0 ↔ w.extractLsb' 17 11 = 0 ∧ w.extractLsb' 2 14 = 0 := by
  have hmask : reservedMask 2 = fieldMask 17 11 ||| fieldMask 2 14 := rfl
  rw [hmask, and_or_eq_zero_iff, and_fieldMask_eq_zero_iff w (by decide), and_fieldMask_eq_zero_iff w (by decide)]

theorem reserved_absorb (w : Word) : w &&& reservedMask 3 = 0 ↔ w.extractLsb' 16 12 = 0 :=
  and_fieldMask_eq_zero_iff w (p := 16) (n := 12) (by decide)

theorem reserved_finalize (w : Word) : w &&& reservedMask 4 = 0 ↔ w.extractLsb' 0 28 = 0 :=
  and_fieldMask_eq_zero_iff w (p := 0) (n := 28) (by decide)

theorem reserved_oneshot (w : Word) : w &&& reservedMask 5 = 0 ↔ w.extractLsb' 17 11 = 0 := reserved_init w

theorem reserved_rddig (w : Word) : w &&& reservedMask 6 = 0 ↔ w.extractLsb' 8 20 = 0 :=
  and_fieldMask_eq_zero_iff w (p := 8) (n := 20) (by decide)

theorem reserved_status (w : Word) : w &&& reservedMask 7 = 0 ↔ w.extractLsb' 0 28 = 0 := reserved_finalize w

/-! ### Fields as numbers -/

theorem opcodeField_toNat (w : Word) : (opcodeField w).toNat = w.toNat / 2 ^ 28 := by
  have hw : w.toNat < 2 ^ 32 := w.isLt
  rw [opcodeField, BitVec.extractLsb'_toNat, Nat.shiftRight_eq_div_pow]
  exact Nat.mod_eq_of_lt (by omega)

theorem opcodeField_of_toNat {w : Word} {k : Nat} (h : (opcodeField w).toNat = k) :
    opcodeField w = BitVec.ofNat 4 k := by
  rw [← h, BitVec.ofNat_toNat, BitVec.setWidth_eq]

theorem lowHalf_toNat (w : Word) : (lowHalf w).toNat = w.toNat % 2 ^ 16 := by
  rw [lowHalf, BitVec.extractLsb'_toNat, Nat.shiftRight_zero]

/-- The low half by its mask (opcode_table.json). -/
theorem toNat_and_lowMask (w : Word) : (w &&& 0xFFFF#32).toNat = (lowHalf w).toNat := by
  have hmask : w &&& 0xFFFF#32 = (lowHalf w).zeroExtend 32 <<< 0 := and_fieldMask w 0 16
  rw [hmask, BitVec.shiftLeft_zero]
  exact BitVec.toNat_setWidth_of_le (by decide)

/-! ### The codes of a mode and a size (R6, R8, R82) -/

theorem modeField_eq (w : Word) : modeField w = modeOfBit ((w.extractLsb' 16 1).getLsbD 0) := by
  simp [modeField]

theorem modeOfBit_code (m : Mode) : modeOfBit (m.code.getLsbD 0) = m := by cases m <;> rfl

theorem modeField_of_code {w : Word} {m : Mode} (h : w.extractLsb' 16 1 = m.code) : modeField w = m := by
  rw [modeField_eq, h, modeOfBit_code]

theorem code_modeOfBit (c : BitVec 1) : (modeOfBit (c.getLsbD 0)).code = c := by
  revert c
  decide

theorem sizeOfCode_code (z : SizeSel) : sizeOfCode z.code = z := by cases z <;> rfl

theorem code_sizeOfCode (c : BitVec 2) : (sizeOfCode c).code = c := by
  revert c
  decide

theorem code_modeField (w : Word) : (modeField w).code = w.extractLsb' 16 1 := by
  rw [modeField_eq, code_modeOfBit]

theorem code_sizeField (w : Word) : (sizeField w).code = w.extractLsb' 0 2 := code_sizeOfCode _

end Sys2Proof.Machine

/-! PROOF. What the decoder accepts (spec 30_encoding R72 to R79, R84), said once for both directions. -/

namespace Sys2Proof.Machine

/-- The transactions of a command: opcode, reserved bits 0, word count, and the operands read from their fields. -/
inductive Spells : Transaction → Instr → Prop
  | init {w : Word} (op : opcodeField w = 1) (reserved : w &&& reservedMask 1 = 0) :
      Spells [w] (.init (modeField w) (lowHalf w))
  | initf {w : Word} (op : opcodeField w = 2) (reserved : w &&& reservedMask 2 = 0) :
      Spells [w] (.initf (modeField w) (sizeField w))
  | absorb {w : Word} {ps : List Word} (op : opcodeField w = 3) (reserved : w &&& reservedMask 3 = 0)
      (count : ps.length = payloadWords (lowHalf w).toNat) :
      Spells (w :: ps) (.absorb (unpack ps (lowHalf w).toNat))
  | finalize {w : Word} (op : opcodeField w = 4) (reserved : w &&& reservedMask 4 = 0) : Spells [w] .finalize
  | oneshot {w v : Word} {ps : List Word} (op : opcodeField w = 5) (reserved : w &&& reservedMask 5 = 0)
      (count : ps.length = payloadWords (lowHalf v).toNat) :
      Spells (w :: v :: ps) (.oneshot (modeField w) (lowHalf w) (highHalf v) (unpack ps (lowHalf v).toNat))
  | rddig {w : Word} (op : opcodeField w = 6) (reserved : w &&& reservedMask 6 = 0) :
      Spells [w] (.rddig (w.extractLsb' 0 8))
  | status {w : Word} (op : opcodeField w = 7) (reserved : w &&& reservedMask 7 = 0) : Spells [w] .status

theorem checked_eq_cmd_iff {reservedZero countRight : Bool} {i j : Instr} :
    checked reservedZero countRight i = .cmd j ↔ reservedZero = true ∧ countRight = true ∧ i = j := by
  cases reservedZero <;> cases countRight <;> simp [checked]

theorem checked_isEmpty_eq_cmd_iff {reservedZero : Bool} {rest : List Word} {i j : Instr} :
    checked reservedZero rest.isEmpty i = .cmd j ↔ reservedZero = true ∧ rest = [] ∧ i = j := by
  rw [checked_eq_cmd_iff, List.isEmpty_iff]

theorem decode_of_spells {ws : Transaction} {i : Instr} (h : Spells ws i) : decode ws = .cmd i := by
  cases h with
  | init op reserved =>
    rw [reserved_init] at reserved
    simp [decode, op, decodeInit, checked, reserved]
  | initf op reserved =>
    rw [reserved_initf] at reserved
    simp [decode, op, decodeInitf, checked, reserved]
  | absorb op reserved count =>
    rw [reserved_absorb] at reserved
    simp [decode, op, decodeAbsorb, checked, reserved, count]
  | finalize op reserved =>
    rw [reserved_finalize] at reserved
    simp [decode, op, decodeFinalize, checked, reserved]
  | oneshot op reserved count =>
    rw [reserved_oneshot] at reserved
    simp [decode, op, decodeOneshot, checked, reserved, count]
  | rddig op reserved =>
    rw [reserved_rddig] at reserved
    simp [decode, op, decodeRddig, checked, reserved]
  | status op reserved =>
    rw [reserved_status] at reserved
    simp [decode, op, decodeStatus, checked, reserved]

theorem spells_of_decode {ws : Transaction} {i : Instr} (h : decode ws = .cmd i) : Spells ws i := by
  match ws with
  | [] => simp [decode] at h
  | w :: rest =>
    simp only [decode] at h
    split at h
    case h_1 hk =>
      obtain ⟨hres, rfl, rfl⟩ := checked_isEmpty_eq_cmd_iff.mp h
      exact .init (opcodeField_of_toNat hk) ((reserved_init w).mpr (by simpa using hres))
    case h_2 hk =>
      obtain ⟨hres, rfl, rfl⟩ := checked_isEmpty_eq_cmd_iff.mp h
      exact .initf (opcodeField_of_toNat hk) ((reserved_initf w).mpr (by simpa using hres))
    case h_3 hk =>
      obtain ⟨hres, hcount, rfl⟩ := checked_eq_cmd_iff.mp h
      exact .absorb (opcodeField_of_toNat hk) ((reserved_absorb w).mpr (by simpa using hres)) (by simpa using hcount)
    case h_4 hk =>
      obtain ⟨hres, rfl, rfl⟩ := checked_isEmpty_eq_cmd_iff.mp h
      exact .finalize (opcodeField_of_toNat hk) ((reserved_finalize w).mpr (by simpa using hres))
    case h_5 hk =>
      match rest with
      | [] =>
        simp only [decodeOneshot] at h
        split at h <;> cases h
      | v :: ps =>
        obtain ⟨hres, hcount, rfl⟩ := checked_eq_cmd_iff.mp h
        exact .oneshot (opcodeField_of_toNat hk) ((reserved_oneshot w).mpr (by simpa using hres))
          (by simpa using hcount)
    case h_6 hk =>
      obtain ⟨hres, rfl, rfl⟩ := checked_isEmpty_eq_cmd_iff.mp h
      exact .rddig (opcodeField_of_toNat hk) ((reserved_rddig w).mpr (by simpa using hres))
    case h_7 hk =>
      obtain ⟨hres, rfl, rfl⟩ := checked_isEmpty_eq_cmd_iff.mp h
      exact .status (opcodeField_of_toNat hk) ((reserved_status w).mpr (by simpa using hres))
    case h_8 => cases h

/-- The decoder reads exactly the commands the formats spell (R84). -/
theorem decode_eq_cmd_iff {ws : Transaction} {i : Instr} : decode ws = .cmd i ↔ Spells ws i :=
  ⟨spells_of_decode, decode_of_spells⟩

end Sys2Proof.Machine

/-! PROOF. Decoding the encoding (spec 30_encoding R73 to R79, R83, R84, R87): the fields and the payload the encoder
writes are those the decoder reads. -/

namespace Sys2Proof.Machine

/-! ### The payload -/

/-- The decoder's bytes of the encoder's word (R83). -/
theorem wordBytes_wordOfBytes (a b c d : Byte) : wordBytes (wordOfBytes a b c d) = [a, b, c, d] := by
  -- the width written as the sum of the four bytes, as the lemmas about `++` want it
  change ([0, 8, 16, 24].map fun p => BitVec.extractLsb' (n := 8 + 8 + 8 + 8) p 8 (d ++ c ++ b ++ a)) = _
  simp (disch := omega) only [List.map, BitVec.extractLsb'_append_eq_right, BitVec.extractLsb'_append_eq_of_le,
    BitVec.extractLsb'_eq_self, Nat.reduceSub]

/-- Packing and unpacking a payload gives it back (R83, R87). -/
theorem unpack_pack (bytes : List Byte) : unpack (pack bytes) bytes.length = bytes := by
  induction bytes using pack.induct with
  | case1 => rfl
  | case2 | case3 | case4 => simp [pack, unpack, wordBytes_wordOfBytes]
  | case5 a b c d rest ih => simpa [pack, unpack, wordBytes_wordOfBytes] using ih

theorem payloadFits_iff {bytes : List Byte} : payloadFits bytes = true ↔ bytes.length ≤ 65535 := by
  rw [payloadFits, decide_eq_true_iff, Config.maxAbsorb]

/-- A well-formed payload's length is its length field (R75, R77). -/
theorem lengthField_toNat {bytes : List Byte} (h : payloadFits bytes = true) :
    (lengthField bytes).toNat = bytes.length := by
  have hlen := payloadFits_iff.mp h
  rw [lengthField, BitVec.toNat_ofNat, Nat.mod_eq_of_lt (by omega)]

/-! ### The header words -/

theorem extract_field_same {n : Nat} (x : BitVec n) (h : n ≤ 32) : (x.zeroExtend 32).extractLsb' 0 n = x := by
  simpa using extract_shiftedField_same x (p := 0) (by omega)

theorem extract_field_above {n : Nat} (x : BitVec n) {q k : Nat} (h : n ≤ q) :
    (x.zeroExtend 32).extractLsb' q k = 0 := by
  simpa using extract_shiftedField_disjoint x (p := 0) (k := k) (.inr (by omega))

/-- The fields of a header with a mode bit: opcode, reserved bits, mode, reserved bits above the operand, operand. -/
theorem fields_of_modeHeader {k : Nat} (op : BitVec 4) (m : BitVec 1) (x : BitVec k) (hk : k ≤ 16) :
    let w : Word := op.zeroExtend 32 <<< 28 ||| m.zeroExtend 32 <<< 16 ||| x.zeroExtend 32
    w.extractLsb' 28 4 = op ∧ w.extractLsb' 17 11 = 0 ∧ w.extractLsb' 16 1 = m ∧ w.extractLsb' k (16 - k) = 0 ∧
      w.extractLsb' 0 k = x := by
  simp (disch := omega) [BitVec.extractLsb'_or, extract_shiftedField_same, extract_shiftedField_disjoint,
    extract_field_same, extract_field_above]

/-- The fields of a header without a mode bit: opcode, reserved bits, operand. -/
theorem fields_of_plainHeader {k : Nat} (op : BitVec 4) (x : BitVec k) (hk : k ≤ 28) :
    let w : Word := op.zeroExtend 32 <<< 28 ||| x.zeroExtend 32
    w.extractLsb' 28 4 = op ∧ w.extractLsb' k (28 - k) = 0 ∧ w.extractLsb' 0 k = x := by
  simp (disch := omega) [BitVec.extractLsb'_or, extract_shiftedField_same, extract_shiftedField_disjoint,
    extract_field_same, extract_field_above]

/-- The encoder writes what the decoder reads. -/
theorem spells_encode {i : Instr} (hwf : i.wellFormed = true) : Spells (encode i) i := by
  cases i with
  | init m bits =>
    obtain ⟨hop, hres, hmode, -, hlow⟩ := fields_of_modeHeader 1 m.code bits (by decide)
    have h := Spells.init hop ((reserved_init _).mpr hres)
    rwa [modeField_of_code hmode, lowHalf, hlow] at h
  | initf m z =>
    obtain ⟨hop, hres, hmode, hres', hlow⟩ := fields_of_modeHeader 2 m.code z.code (by decide)
    have h := Spells.initf hop ((reserved_initf _).mpr ⟨hres, hres'⟩)
    rwa [modeField_of_code hmode, sizeField, hlow, sizeOfCode_code] at h
  | absorb bytes =>
    obtain ⟨hop, hres, hlow⟩ := fields_of_plainHeader 3 (lengthField bytes) (by decide)
    have hlen := lengthField_toNat hwf
    have h := Spells.absorb hop ((reserved_absorb _).mpr hres) (ps := pack bytes)
      (by rw [lowHalf, hlow, hlen, pack_length])
    rwa [lowHalf, hlow, hlen, unpack_pack] at h
  | finalize => exact .finalize (by decide) (by decide)
  | oneshot m bits cap bytes =>
    obtain ⟨hop, hres, hmode, -, hlow⟩ := fields_of_modeHeader 5 m.code bits (by decide)
    have hcap : highHalf (cap ++ lengthField bytes) = cap := BitVec.extractLsb'_append_eq_left
    have hn : lowHalf (cap ++ lengthField bytes) = lengthField bytes := BitVec.extractLsb'_append_eq_right
    have hlen := lengthField_toNat hwf
    have h := Spells.oneshot hop ((reserved_oneshot _).mpr hres) (v := cap ++ lengthField bytes) (ps := pack bytes)
      (by rw [hn, hlen, pack_length])
    rwa [modeField_of_code hmode, lowHalf, hlow, hcap, hn, hlen, unpack_pack] at h
  | rddig idx =>
    obtain ⟨hop, hres, hlow⟩ := fields_of_plainHeader 6 idx (by decide)
    have h := Spells.rddig hop ((reserved_rddig _).mpr hres)
    rwa [hlow] at h
  | status => exact .status (by decide) (by decide)

/-- Settles O6, word by word. -/
theorem writtenWordsDecode : Obligations.WrittenWordsDecode := by
  unfold Obligations.WrittenWordsDecode
  decide

/-- Settles O1: a well-formed command's encoding is one of the transactions that spell it. -/
theorem decodeOfEncodeIsTheCommand : Obligations.DecodeOfEncodeIsTheCommand :=
  fun _ hwf => decode_of_spells (spells_encode hwf)

end Sys2Proof.Machine

/-! PROOF. A decoded transaction is the encoding of its command but for the ignored bytes (spec 30_encoding R83,
R86). -/

namespace Sys2Proof.Machine

/-- A header without reserved bits is its opcode, its mode bit and its operand. -/
theorem eq_modeHeader {w r : Word} {k : Nat} (h : w &&& r = 0)
    (hcover : fieldMask 28 4 ||| r ||| fieldMask 16 1 ||| fieldMask 0 k = BitVec.allOnes 32) :
    w = (opcodeField w).zeroExtend 32 <<< 28 ||| (w.extractLsb' 16 1).zeroExtend 32 <<< 16 |||
      (w.extractLsb' 0 k).zeroExtend 32 := by
  have hw : w &&& (fieldMask 28 4 ||| r ||| fieldMask 16 1 ||| fieldMask 0 k) = w := by
    rw [hcover, BitVec.and_allOnes]
  simpa [BitVec.and_or_distrib_left, h, and_fieldMask, opcodeField] using hw.symm

/-- A header without reserved bits and without a mode bit is its opcode and its operand. -/
theorem eq_plainHeader {w r : Word} {k : Nat} (h : w &&& r = 0)
    (hcover : fieldMask 28 4 ||| r ||| fieldMask 0 k = BitVec.allOnes 32) :
    w = (opcodeField w).zeroExtend 32 <<< 28 ||| (w.extractLsb' 0 k).zeroExtend 32 := by
  have hw : w &&& (fieldMask 28 4 ||| r ||| fieldMask 0 k) = w := by rw [hcover, BitVec.and_allOnes]
  simpa [BitVec.and_or_distrib_left, h, and_fieldMask, opcodeField] using hw.symm

theorem highHalf_append_lowHalf (w : Word) : highHalf w ++ lowHalf w = w :=
  BitVec.extractLsb'_append_extractLsb' (w := 16) (len := 16)

/-- A payload of the right word count has as many bytes as its length field says (R72, R83). -/
theorem unpack_length_of_count {ps : List Word} {n : Nat} (h : ps.length = payloadWords n) :
    (unpack ps n).length = n := by
  rw [unpack_length, h, payloadWords]
  omega

theorem lengthField_unpack {ps : List Word} {n : Half} (h : ps.length = payloadWords n.toNat) :
    lengthField (unpack ps n.toNat) = n := by
  rw [lengthField, unpack_length_of_count h, BitVec.ofNat_toNat, BitVec.setWidth_eq]

theorem payloadFits_unpack {ps : List Word} {n : Half} (h : ps.length = payloadWords n.toNat) :
    payloadFits (unpack ps n.toNat) = true := by
  rw [payloadFits_iff, unpack_length_of_count h]
  have hn := n.isLt
  omega

theorem wellFormed_of_spells {ws : Transaction} {i : Instr} (h : Spells ws i) : i.wellFormed = true := by
  cases h with
  | absorb _ _ count => exact payloadFits_unpack count
  | oneshot _ _ count => exact payloadFits_unpack count
  | init | initf | finalize | rddig | status => rfl

theorem length_of_spells {ws : Transaction} {i : Instr} (h : Spells ws i) : ws.length = i.wordCount := by
  cases h with
  | absorb _ _ count =>
    simp only [Instr.wordCount, unpack_length_of_count count, List.length_cons, count]
    omega
  | oneshot _ _ count =>
    simp only [Instr.wordCount, unpack_length_of_count count, List.length_cons, count]
    omega
  | init | initf | finalize | rddig | status => rfl

theorem header_of_spells {ws : Transaction} {i : Instr} (h : Spells ws i) :
    ws.take i.headerWords = (encode i).take i.headerWords := by
  cases h with
  | @init w op reserved =>
    have hw := eq_modeHeader (k := 16) reserved (by decide)
    rw [op, ← code_modeField] at hw
    exact congrArg (fun v => [v]) hw
  | @initf w op reserved =>
    have hw := eq_modeHeader (k := 2) reserved (by decide)
    rw [op, ← code_modeField, ← code_sizeField] at hw
    exact congrArg (fun v => [v]) hw
  | @absorb w ps op reserved count =>
    have hw := eq_plainHeader (k := 16) reserved (by decide)
    rw [op] at hw
    simp only [encode, lengthField_unpack count]
    exact congrArg (fun v => [v]) hw
  | @finalize w op reserved =>
    have hw : w = 0x40000000#32 := by simpa [op] using eq_plainHeader (k := 0) reserved (by decide)
    exact congrArg (fun v => [v]) hw
  | @oneshot w v ps op reserved count =>
    have hw := eq_modeHeader (k := 16) reserved (by decide)
    rw [op, ← code_modeField] at hw
    simp only [encode, lengthField_unpack count, highHalf_append_lowHalf]
    exact congrArg (fun u => [u, v]) hw
  | rddig op reserved =>
    have hw := eq_plainHeader (k := 8) reserved (by decide)
    rw [op] at hw
    exact congrArg (fun v => [v]) hw
  | @status w op reserved =>
    have hw : w = 0x70000000#32 := by simpa [op] using eq_plainHeader (k := 0) reserved (by decide)
    exact congrArg (fun v => [v]) hw

theorem payload_of_spells {ws : Transaction} {i : Instr} (h : Spells ws i) :
    unpack (ws.drop i.headerWords) i.payload.length = i.payload := by
  cases h with
  | absorb _ _ count => simp only [Instr.payload, unpack_length_of_count count]; rfl
  | oneshot _ _ count => simp only [Instr.payload, unpack_length_of_count count]; rfl
  | init | initf | finalize | rddig | status => rfl

/-- Settles O2: each part holds of every transaction that spells the command. -/
theorem decodedTransactionIsTheEncoding : Obligations.DecodedTransactionIsTheEncoding := by
  intro ws i h
  have hspells := spells_of_decode h
  exact ⟨wellFormed_of_spells hspells, length_of_spells hspells, header_of_spells hspells,
    payload_of_spells hspells⟩

end Sys2Proof.Machine

/-! PROOF. The decoder against the opcode table (spec opcode_table.json, 30_encoding R71, R72). -/

namespace Sys2Proof.Machine

/-- A comparison under two masks is a comparison under each. -/
theorem and_or_eq_iff {w v a b : Word} (hv : v &&& a ||| v &&& b = v) :
    w &&& (a ||| b) = v ↔ w &&& a = v &&& a ∧ w &&& b = v &&& b := by
  constructor
  · rintro rfl
    have hleft : (a ||| b) &&& a = a := by ext i hi; simpa using fun h => .inl h
    have hright : (a ||| b) &&& b = b := by ext i hi; simpa using fun h => .inr h
    rw [BitVec.and_assoc, BitVec.and_assoc, hleft, hright]
    exact ⟨rfl, rfl⟩
  · rintro ⟨ha, hb⟩
    rw [BitVec.and_or_distrib_left, ha, hb, hv]

/-- Every row's mask is the opcode and the reserved bits of its opcode, which its pattern leaves 0. -/
theorem row_mask : ∀ r ∈ opcodeTable,
    r.mask = fieldMask 28 4 ||| reservedMask (opcodeField r.pattern).toNat ∧
    r.pattern &&& fieldMask 28 4 = r.pattern ∧
    r.pattern &&& reservedMask (opcodeField r.pattern).toNat = 0 := by decide

/-- A word matches a row by its opcode and its reserved bits (R71). -/
theorem matches_iff {r : OpcodeRow} (hr : r ∈ opcodeTable) (w : Word) :
    w &&& r.mask = r.pattern ↔
      opcodeField w = opcodeField r.pattern ∧ w &&& reservedMask (opcodeField r.pattern).toNat = 0 := by
  obtain ⟨hmask, hop, hres⟩ := row_mask r hr
  have hv : r.pattern &&& fieldMask 28 4 ||| r.pattern &&& reservedMask (opcodeField r.pattern).toNat = r.pattern := by
    rw [hop, hres]
    exact BitVec.or_zero
  rw [hmask, and_or_eq_iff hv, hres, and_fieldMask r.pattern, and_fieldMask_eq_iff w _ (by decide)]
  rfl

section Accepts
variable {r : OpcodeRow} {ws : Transaction}

theorem accepts_noPayload_iff (hr : r ∈ opcodeTable) (hp : r.payload = .noPayload) :
    r.accepts ws = true ↔ ∃ w, ws = [w] ∧ opcodeField w = opcodeField r.pattern ∧
      w &&& reservedMask (opcodeField r.pattern).toNat = 0 := by
  match ws with
  | [] => simp [OpcodeRow.accepts]
  | w :: rest => simp [OpcodeRow.accepts, hp, matches_iff hr, and_comm]

theorem accepts_inW0_iff (hr : r ∈ opcodeTable) (hp : r.payload = .inW0) :
    r.accepts ws = true ↔ ∃ w ps, ws = w :: ps ∧ opcodeField w = opcodeField r.pattern ∧
      w &&& reservedMask (opcodeField r.pattern).toNat = 0 ∧ ps.length = payloadWords (lowHalf w).toNat := by
  match ws with
  | [] => simp [OpcodeRow.accepts]
  | w :: rest =>
    simp only [OpcodeRow.accepts, hp, toNat_and_lowMask]
    simp [matches_iff hr, payloadWords, and_assoc]

theorem accepts_inW1_iff (hr : r ∈ opcodeTable) (hp : r.payload = .inW1) :
    r.accepts ws = true ↔ ∃ w v ps, ws = w :: v :: ps ∧ opcodeField w = opcodeField r.pattern ∧
      w &&& reservedMask (opcodeField r.pattern).toNat = 0 ∧ ps.length = payloadWords (lowHalf v).toNat := by
  match ws with
  | [] => simp [OpcodeRow.accepts]
  | [w] => simp [OpcodeRow.accepts, hp]
  | w :: v :: rest =>
    simp only [OpcodeRow.accepts, hp, toNat_and_lowMask]
    simp [matches_iff hr, payloadWords, and_assoc]

end Accepts

/-- The row of a command's mnemonic accepts the transactions that spell it. -/
theorem row_of_spells {ws : Transaction} {i : Instr} (h : Spells ws i) :
    ∃ r ∈ opcodeTable, r.mnemonic = i.mnemonic ∧ r.accepts ws = true := by
  cases h with
  | init op reserved =>
    have hr : opcodeTable[0] ∈ opcodeTable := List.getElem_mem _
    exact ⟨_, hr, rfl, (accepts_noPayload_iff hr rfl).mpr ⟨_, rfl, op, reserved⟩⟩
  | initf op reserved =>
    have hr : opcodeTable[1] ∈ opcodeTable := List.getElem_mem _
    exact ⟨_, hr, rfl, (accepts_noPayload_iff hr rfl).mpr ⟨_, rfl, op, reserved⟩⟩
  | absorb op reserved count =>
    have hr : opcodeTable[2] ∈ opcodeTable := List.getElem_mem _
    exact ⟨_, hr, rfl, (accepts_inW0_iff hr rfl).mpr ⟨_, _, rfl, op, reserved, count⟩⟩
  | finalize op reserved =>
    have hr : opcodeTable[3] ∈ opcodeTable := List.getElem_mem _
    exact ⟨_, hr, rfl, (accepts_noPayload_iff hr rfl).mpr ⟨_, rfl, op, reserved⟩⟩
  | oneshot op reserved count =>
    have hr : opcodeTable[4] ∈ opcodeTable := List.getElem_mem _
    exact ⟨_, hr, rfl, (accepts_inW1_iff hr rfl).mpr ⟨_, _, _, rfl, op, reserved, count⟩⟩
  | rddig op reserved =>
    have hr : opcodeTable[5] ∈ opcodeTable := List.getElem_mem _
    exact ⟨_, hr, rfl, (accepts_noPayload_iff hr rfl).mpr ⟨_, rfl, op, reserved⟩⟩
  | status op reserved =>
    have hr : opcodeTable[6] ∈ opcodeTable := List.getElem_mem _
    exact ⟨_, hr, rfl, (accepts_noPayload_iff hr rfl).mpr ⟨_, rfl, op, reserved⟩⟩

/-- What a row accepts spells a command of its mnemonic. -/
theorem spells_of_row {ws : Transaction} {r : OpcodeRow} (hr : r ∈ opcodeTable) (h : r.accepts ws = true) :
    ∃ i, Spells ws i ∧ i.mnemonic = r.mnemonic := by
  have hrow := hr
  simp only [opcodeTable, List.mem_cons, List.not_mem_nil, or_false] at hrow
  rcases hrow with rfl | rfl | rfl | rfl | rfl | rfl | rfl
  · obtain ⟨w, rfl, op, reserved⟩ := (accepts_noPayload_iff hr rfl).mp h
    exact ⟨_, .init op reserved, rfl⟩
  · obtain ⟨w, rfl, op, reserved⟩ := (accepts_noPayload_iff hr rfl).mp h
    exact ⟨_, .initf op reserved, rfl⟩
  · obtain ⟨w, ps, rfl, op, reserved, count⟩ := (accepts_inW0_iff hr rfl).mp h
    exact ⟨_, .absorb op reserved count, rfl⟩
  · obtain ⟨w, rfl, op, reserved⟩ := (accepts_noPayload_iff hr rfl).mp h
    exact ⟨_, .finalize op reserved, rfl⟩
  · obtain ⟨w, v, ps, rfl, op, reserved, count⟩ := (accepts_inW1_iff hr rfl).mp h
    exact ⟨_, .oneshot op reserved count, rfl⟩
  · obtain ⟨w, rfl, op, reserved⟩ := (accepts_noPayload_iff hr rfl).mp h
    exact ⟨_, .rddig op reserved, rfl⟩
  · obtain ⟨w, rfl, op, reserved⟩ := (accepts_noPayload_iff hr rfl).mp h
    exact ⟨_, .status op reserved, rfl⟩

/-- Settles O3: a row accepts what spells its command, opcode by opcode. -/
theorem decodeAcceptsExactlyTheOpcodeTable : Obligations.DecodeAcceptsExactlyTheOpcodeTable := by
  unfold Obligations.DecodeAcceptsExactlyTheOpcodeTable
  simp only [decode_eq_cmd_iff]
  exact ⟨fun _ _ => row_of_spells, fun _ _ => spells_of_row⟩

end Sys2Proof.Machine

/-! PROOF. The illegal transactions (spec 30_encoding R85, 60_exceptions R183). -/

namespace Sys2Proof.Machine

/-- What R85 leaves legal: a defined opcode, its reserved bits 0, and the word count its header asks for. -/
theorem illegalForm_cons_eq_false_iff (w : Word) (rest : List Word) :
    illegalForm (w :: rest) = false ↔
      1 ≤ (opcodeField w).toNat ∧ (opcodeField w).toNat < 8 ∧ w &&& reservedMask (opcodeField w).toNat = 0 ∧
      rest.length + 1 = requiredWords (w :: rest) := by
  simp only [illegalForm, ← opcodeField_toNat]
  simp [Nat.one_le_iff_ne_zero, and_assoc]

section RequiredWords
variable {w : Word}

/-- The word count of R72 under an opcode that has no payload. -/
theorem requiredWords_of_noPayload (rest : List Word) (h₃ : (opcodeField w).toNat ≠ 3)
    (h₅ : (opcodeField w).toNat ≠ 5) : requiredWords (w :: rest) = 1 := by
  rw [opcodeField_toNat] at h₃ h₅
  unfold requiredWords
  split
  case h_1 heq => cases heq
  case h_2 heq =>
    cases heq
    split
    case h_1 hop => exact absurd hop h₃
    case h_2 hop => exact absurd hop h₅
    case h_3 hop => exact absurd hop h₅
    case h_4 => rfl

theorem requiredWords_of_absorb (rest : List Word) (h : (opcodeField w).toNat = 3) :
    requiredWords (w :: rest) = 1 + payloadWords (lowHalf w).toNat := by
  rw [opcodeField_toNat] at h
  simp only [requiredWords, h, lowHalf_toNat, payloadWords]

theorem requiredWords_of_oneshot (v : Word) (ps : List Word) (h : (opcodeField w).toNat = 5) :
    requiredWords (w :: v :: ps) = 2 + payloadWords (lowHalf v).toNat := by
  rw [opcodeField_toNat] at h
  simp only [requiredWords, h, lowHalf_toNat, payloadWords]

theorem requiredWords_of_shortOneshot (h : (opcodeField w).toNat = 5) : requiredWords [w] = 2 := by
  rw [opcodeField_toNat] at h
  simp only [requiredWords, h]

end RequiredWords

theorem legal_of_spells {ws : Transaction} {i : Instr} (h : Spells ws i) : illegalForm ws = false := by
  cases h with
  | init op reserved | initf op reserved | finalize op reserved | rddig op reserved | status op reserved =>
    rw [illegalForm_cons_eq_false_iff, requiredWords_of_noPayload _ (by rw [op]; decide) (by rw [op]; decide), op]
    exact ⟨by decide, by decide, reserved, rfl⟩
  | absorb op reserved count =>
    rw [illegalForm_cons_eq_false_iff, requiredWords_of_absorb _ (by rw [op]; rfl), op, count, Nat.add_comm]
    exact ⟨by decide, by decide, reserved, rfl⟩
  | oneshot op reserved count =>
    rw [illegalForm_cons_eq_false_iff, requiredWords_of_oneshot _ _ (by rw [op]; rfl), op, List.length_cons, count]
    exact ⟨by decide, by decide, reserved, by omega⟩

theorem spells_of_legal {ws : Transaction} (h : illegalForm ws = false) : ∃ i, Spells ws i := by
  match ws with
  | [] => cases h
  | w :: rest =>
    obtain ⟨hpos, hlt, hres, hcount⟩ := (illegalForm_cons_eq_false_iff w rest).mp h
    have hplain (h₃ : (opcodeField w).toNat ≠ 3) (h₅ : (opcodeField w).toNat ≠ 5) : rest = [] := by
      rw [requiredWords_of_noPayload rest h₃ h₅] at hcount
      exact List.length_eq_zero_iff.mp (by omega)
    interval_cases hk : (opcodeField w).toNat
    · -- opcode 1
      obtain rfl := hplain (by decide) (by decide)
      exact ⟨_, .init (opcodeField_of_toNat hk) hres⟩
    · -- opcode 2
      obtain rfl := hplain (by decide) (by decide)
      exact ⟨_, .initf (opcodeField_of_toNat hk) hres⟩
    · -- opcode 3
      rw [requiredWords_of_absorb rest hk] at hcount
      exact ⟨_, .absorb (opcodeField_of_toNat hk) hres (by omega)⟩
    · -- opcode 4
      obtain rfl := hplain (by decide) (by decide)
      exact ⟨_, .finalize (opcodeField_of_toNat hk) hres⟩
    · -- opcode 5
      match rest with
      | [] =>
        rw [requiredWords_of_shortOneshot hk] at hcount
        cases hcount
      | v :: ps =>
        rw [requiredWords_of_oneshot v ps hk, List.length_cons] at hcount
        exact ⟨_, .oneshot (opcodeField_of_toNat hk) hres (by omega)⟩
    · -- opcode 6
      obtain rfl := hplain (by decide) (by decide)
      exact ⟨_, .rddig (opcodeField_of_toNat hk) hres⟩
    · -- opcode 7
      obtain rfl := hplain (by decide) (by decide)
      exact ⟨_, .status (opcodeField_of_toNat hk) hres⟩

/-- The list of R85 is what decodes to no command. -/
theorem illegalForm_iff (ws : Transaction) : illegalForm ws = true ↔ ∃ err, decode ws = .illegal err := by
  cases hd : decode ws with
  | cmd i => simp [legal_of_spells (spells_of_decode hd)]
  | illegal err =>
    refine iff_of_true ?_ ⟨err, rfl⟩
    by_contra hlegal
    obtain ⟨i, hi⟩ := spells_of_legal (Bool.eq_false_of_not_eq_true hlegal)
    cases hd.symm.trans (decode_of_spells hi)

/-- Settles O4: the step is that of a transaction that decodes to no command. -/
theorem illegalTransactionIsRejectedWhole : Obligations.IllegalTransactionIsRejectedWhole := by
  refine ⟨illegalForm_iff, fun s ws rest hport hform => ?_⟩
  obtain ⟨err, herr⟩ := (illegalForm_iff ws).mp hform
  exact step_of_illegal hport herr

end Sys2Proof.Machine

/-! PROOF. The bytes of a payload (spec 30_encoding R83). -/

namespace Sys2Proof.Machine

/-- Byte k of a payload is byte k mod 4 of its word k div 4. -/
theorem flatMap_wordBytes_getElem? (ps : List Word) {k : Nat} (hk : k < 4 * ps.length) :
    (ps.flatMap wordBytes)[k]? = some ((ps.getD (k / 4) 0).extractLsb' (8 * (k % 4)) 8) := by
  induction ps generalizing k with
  | nil => simp at hk
  | cons p ps ih =>
    rw [List.flatMap_cons]
    rcases Nat.lt_or_ge k 4 with hfirst | hlater
    · rw [List.getElem?_append_left hfirst]
      interval_cases k <;> rfl
    · have hword : k / 4 = (k - 4) / 4 + 1 := by omega
      have hbyte : k % 4 = (k - 4) % 4 := by omega
      rw [List.length_cons] at hk
      rw [List.getElem?_append_right hlater, wordBytes_length, ih (by omega), hword, hbyte, List.getD_cons_succ]

theorem unpack_getElem? {ps : List Word} {n k : Nat} (hn : n ≤ 4 * ps.length) (hk : k < n) :
    (unpack ps n)[k]? = some ((ps.getD (k / 4) 0).extractLsb' (8 * (k % 4)) 8) := by
  rw [unpack, List.getElem?_take_of_lt hk, flatMap_wordBytes_getElem? ps (by omega)]

theorem unpack_length_of_le {ps : List Word} {n : Nat} (hn : n ≤ 4 * ps.length) : (unpack ps n).length = n := by
  rw [unpack_length, Nat.min_eq_left hn]

/-- Settles O5: two payloads unpack alike where their bytes below N are the same. -/
theorem payloadBytesAreLittleEndian : Obligations.PayloadBytesAreLittleEndian := by
  refine ⟨fun ps n hn => ⟨unpack_length_of_le hn, fun k hk => unpack_getElem? hn hk⟩, ?_⟩
  intro ps qs n hps hqs hbytes
  apply List.ext_getElem?
  intro k
  rcases Nat.lt_or_ge k n with hk | hk
  · rw [unpack_getElem? hps hk, unpack_getElem? hqs hk, hbytes k hk]
  · rw [List.getElem?_eq_none (by rwa [unpack_length_of_le hps]),
      List.getElem?_eq_none (by rwa [unpack_length_of_le hqs])]

end Sys2Proof.Machine

/-! PROOF. One response per command, with the data of R80 (spec 30_encoding R80, 60_exceptions R180). -/

namespace Sys2Proof.Machine

/-- What O31 asks of a command, with P for the data of an OK response. -/
def AnswersOnce (s : State) (res : Result) (P : State → Response → Prop) : Prop :=
  ∃ (t : State) (r : Response),
    res = .next t ∧ t.commandPort = s.commandPort ∧ t.responsePort = s.responsePort ++ [r] ∧
    (r.status ≠ .ok → r.data = [] ∧ t.engine = s.engine) ∧ r.status ≠ .illegalCommand ∧ (r.status = .ok → P t r)

section AnswersOnce
variable {s : State} {res : Result} {P : State → Response → Prop}

theorem answersOnce_of_ok {e : Engine} {data : List Byte}
    (h : res = .next ((s.setEngine e).emit { status := .ok, data := data }))
    (hP : P ((s.setEngine e).emit { status := .ok, data := data }) { status := .ok, data := data }) :
    AnswersOnce s res P :=
  ⟨_, _, h, rfl, rfl, fun hne => absurd rfl hne, nofun, fun _ => hP⟩

theorem answersOnce_of_read {data : List Byte} (h : res = .next (s.emit { status := .ok, data := data }))
    (hP : P (s.emit { status := .ok, data := data }) { status := .ok, data := data }) : AnswersOnce s res P :=
  answersOnce_of_ok (e := s.engine) h hP

theorem answersOnce_of_error {c : StatusCode} (hc : c = .paramError ∨ c = .precondition)
    (h : res = .next (s.emit { status := c, data := [] })) : AnswersOnce s res P := by
  refine ⟨_, _, h, rfl, rfl, fun _ => ⟨rfl, rfl⟩, ?_, ?_⟩ <;> rcases hc with rfl | rfl <;> nofun

end AnswersOnce

/-- Settles O31: each command's check passes or fails, and its result is known in both cases. -/
theorem oneResponseAndErrorsChangeNothing : Obligations.OneResponseAndErrorsChangeNothing := by
  intro i s
  cases i with
  | init m bits =>
    cases hz : sizeOfBits bits with
    | none => exact answersOnce_of_error (.inl rfl) (exec_init_of_none hz)
    | some z => exact answersOnce_of_ok (exec_init_of_size hz) rfl
  | initf m z => exact answersOnce_of_ok (exec_initf m z s) rfl
  | absorb bytes =>
    cases hs : s.engine.stage.acceptsMessage with
    | false => exact answersOnce_of_error (.inr rfl) (exec_absorb_of_rejects bytes hs)
    | true => exact answersOnce_of_ok (exec_absorb_of_accepts bytes hs) rfl
  | finalize =>
    cases hs : s.engine.stage.acceptsMessage with
    | false => exact answersOnce_of_error (.inr rfl) (exec_finalize_of_rejects hs)
    | true => exact answersOnce_of_ok (exec_finalize_of_accepts hs) rfl
  | oneshot m bits cap bytes =>
    cases hz : oneshotSize Config.params bits cap with
    | none => exact answersOnce_of_error (.inl rfl) (oneshotWith_of_none bytes hz)
    | some z => exact answersOnce_of_ok (oneshotWith_of_size bytes hz) ⟨rfl, memRead_length _ _ _⟩
  | rddig idx =>
    by_cases hs : s.engine.stage = .finalized
    · rcases Nat.lt_or_ge idx.toNat s.engine.sizeSel.outputBytes with hlt | hge
      · exact answersOnce_of_read (exec_rddig_of_lt hs hlt) rfl
      · exact answersOnce_of_error (.inl rfl) (exec_rddig_of_ge hs hge)
    · exact answersOnce_of_error (.inr rfl) (exec_rddig_of_not_finalized hs)
  | status => exact answersOnce_of_read (exec_status s) rfl

end Sys2Proof.Machine

/-! PROOF. Every run takes every event and answers every transaction (spec 70_reset_and_hazards R210, 30_encoding
R70). -/

namespace Sys2Proof.Machine

/-- A step takes one event and gives the responses it is owed: one for a transaction, none for a reset. -/
theorem step_answers_event {s : State} {ev : HostEvent} {rest : List HostEvent} (hport : s.commandPort = ev :: rest) :
    ∃ (t : State) (rs : List Response), step s = .next t ∧ t.commandPort = rest ∧
      t.responsePort = s.responsePort ++ rs ∧ rs.length = [ev].countP HostEvent.isTransaction := by
  cases ev with
  | reset cut => exact ⟨_, [], step_of_reset hport, rfl, (List.append_nil _).symm, rfl⟩
  | transaction ws =>
    cases hd : decode ws with
    | cmd i =>
      obtain ⟨e, a, hexec⟩ := execWith_default ▸ answers_execWith Config.params i (s.setCommands rest)
      exact ⟨_, [a], (step_of_command hport hd).trans hexec, rfl, rfl, rfl⟩
    | illegal err => exact ⟨_, [_], step_of_illegal hport hd, rfl, rfl, rfl⟩

theorem run_answers_events (q : List HostEvent) {s : State} (hport : s.commandPort = q) :
    ∃ (t : State) (rs : List Response), runSteps q.length s = .next t ∧ t.commandPort = [] ∧
      t.responsePort = s.responsePort ++ rs ∧ rs.length = q.countP HostEvent.isTransaction := by
  induction q generalizing s with
  | nil => exact ⟨s, [], rfl, hport, (List.append_nil _).symm, rfl⟩
  | cons ev q ih =>
    obtain ⟨t, rs, hstep, htport, htresp, hlen⟩ := step_answers_event hport
    obtain ⟨u, rs', hrun, huport, huresp, hlen'⟩ := ih htport
    refine ⟨u, rs ++ rs', (runSteps_succ_of_next _ hstep).trans hrun, huport, ?_, ?_⟩
    · rw [huresp, htresp, List.append_assoc]
    · rw [List.length_append, hlen, hlen', ← List.countP_append, List.singleton_append]

/-- A run never stops (60_exceptions R196). -/
theorem runSteps_continues (n : Nat) (s : State) : Continues (runSteps n s) := by
  induction n generalizing s with
  | zero => exact ⟨s, rfl⟩
  | succ n ih =>
    obtain ⟨t, ht⟩ := step_continues s
    exact runSteps_succ_of_next n ht ▸ ih t

/-- Settles O46, event by event. -/
theorem everyRunAnswersEveryTransaction : Obligations.EveryRunAnswersEveryTransaction := fun s =>
  ⟨run_answers_events s.commandPort rfl, fun n => runSteps_continues n s⟩

end Sys2Proof.Machine

/-! PROOF. Sequences of commands (spec 20_memory R58): ABSORBs of any chunks (41_absorb R133), and the transactions that
send a sequence. -/

namespace Sys2Proof.Machine

theorem runCommands_append_of_next {is : List Instr} (js : List Instr) {s t : State} (h : runCommands is s = .next t) :
    runCommands (is ++ js) s = runCommands js t := by
  induction is generalizing s with
  | nil => cases h; rfl
  | cons i is ih =>
    obtain ⟨e, a, hi⟩ := execWith_default ▸ answers_execWith Config.params i s
    rw [runCommands_cons_of_next is hi] at h
    rw [List.cons_append, runCommands_cons_of_next _ hi, ih h]

/-! ### ABSORBs -/

theorem absorbByte_setStage (e : Engine) (g : Stage) (b : Byte) :
    (e.setStage g).absorbByte b = (e.absorbByte b).setStage g := by
  unfold Engine.absorbByte
  rw [apply_ite (fun d : Engine => d.setStage g)]
  rfl

/-- Absorbing bytes does not read the stage. -/
theorem absorbBytes_setStage (e : Engine) (g : Stage) (bs : List Byte) :
    (e.setStage g).absorbBytes bs = (e.absorbBytes bs).setStage g := by
  induction bs generalizing e with
  | nil => rfl
  | cons b bs ih => rw [absorbBytes_cons, absorbByte_setStage, ih, absorbBytes_cons]

/-- Absorbing chunk after chunk leaves the context that one absorb of their concatenation leaves (R133). -/
theorem absorb_absorb (e : Engine) (bs cs : List Byte) : (e.absorb bs).absorb cs = e.absorb (bs ++ cs) := by
  rw [Engine.absorb, Engine.absorb, absorbBytes_setStage, Engine.absorb, absorbBytes_append]
  rfl

/-- ABSORBs of at least one chunk are one ABSORB of the concatenation (R133). -/
theorem foldl_absorb_cons (e : Engine) (c : List Byte) (chunks : List (List Byte)) :
    (c :: chunks).foldl Engine.absorb e = e.absorb (c :: chunks).flatten := by
  induction chunks generalizing c with
  | nil => simp
  | cons d chunks ih =>
    have hmerge : (c :: d :: chunks).foldl Engine.absorb e = ((c ++ d) :: chunks).foldl Engine.absorb e :=
      congrArg (chunks.foldl Engine.absorb) (absorb_absorb e c d)
    rw [hmerge, ih]
    simp

/-- A FINALIZE after ABSORBs of any chunks, or of none, is one after an ABSORB of the concatenation. -/
theorem finalize_foldl_absorb (e : Engine) (chunks : List (List Byte)) :
    (chunks.foldl Engine.absorb e).finalize = (e.absorb chunks.flatten).finalize := by
  cases chunks with
  | nil => rfl
  | cons c chunks => rw [foldl_absorb_cons]

theorem foldl_absorb_accepts {e : Engine} (chunks : List (List Byte)) (h : e.stage.acceptsMessage = true) :
    (chunks.foldl Engine.absorb e).stage.acceptsMessage = true := by
  cases chunks with
  | nil => exact h
  | cons c chunks =>
    rw [foldl_absorb_cons]
    rfl

/-- ABSORBs in a context that accepts a message are answered OK, one after the other. -/
theorem runCommands_absorbs (chunks : List (List Byte)) {s : State} (h : s.engine.stage.acceptsMessage = true) :
    runCommands (chunks.map Instr.absorb) s =
      .next { engine := chunks.foldl Engine.absorb s.engine, commandPort := s.commandPort,
              responsePort := s.responsePort ++ List.replicate chunks.length { status := .ok, data := [] } } := by
  induction chunks generalizing s with
  | nil => rw [List.length_nil, List.replicate_zero, List.append_nil]; rfl
  | cons c chunks ih =>
    rw [List.map_cons, runCommands_cons_of_next _ (exec_absorb_of_accepts c h), ih (by rfl), List.length_cons,
      List.replicate_succ]
    simp

/-! ### Transactions -/

/-- The events that send a sequence of commands. -/
def sendCommands (is : List Instr) : List HostEvent := is.map fun i => .transaction (encode i)

/-- Sending well-formed commands runs them, and leaves the later events waiting. -/
theorem runSteps_sendCommands (is : List Instr) (later : List HostEvent) (hwf : ∀ i ∈ is, i.wellFormed = true)
    {s : State} (hport : s.commandPort = sendCommands is ++ later) :
    runSteps is.length s = runCommands is (s.setCommands later) := by
  induction is generalizing s with
  | nil =>
    have hs : s.setCommands later = s := by rw [State.setCommands, ← show s.commandPort = later from hport]
    rw [hs]
    rfl
  | cons i is ih =>
    obtain ⟨e, a, hexec⟩ := exec_reads_engine i s.engine
    have hdecode : decode (encode i) = .cmd i := decode_of_spells (spells_encode (hwf i List.mem_cons_self))
    have hstep := (step_of_command hport hdecode).trans (hexec _ rfl)
    rw [List.length_cons, runSteps_succ_of_next _ hstep, runCommands_cons_of_next is (hexec (s.setCommands later) rfl)]
    exact ih (fun j hj => hwf j (List.mem_cons_of_mem i hj)) rfl

end Sys2Proof.Machine

/-! PROOF. The assembler emits only what the encoding can carry (spec 30_encoding R87). -/

namespace Sys2Proof.Machine

theorem halfOperand_of_le {n : Nat} (h : n ≤ 65535) : halfOperand n = some (BitVec.ofNat 16 n) :=
  if_pos (Nat.lt_succ_of_le h)

theorem halfOperand_of_gt {n : Nat} (h : 65535 < n) : halfOperand n = none := if_neg (Nat.not_lt.mpr h)

theorem payloadFits_of_gt {bytes : List Byte} (h : 65535 < bytes.length) : payloadFits bytes = false := by
  rw [← Bool.not_eq_true, payloadFits_iff]
  omega

/-- A ONESHOT is assembled where its three operands are in range, and is that command (R87). -/
theorem assembleOneshot_of_fits {bits cap : Nat} (m : Mode) {bytes : List Byte} (hbits : bits ≤ 65535)
    (hcap : cap ≤ 65535) (hbytes : bytes.length ≤ 65535) :
    assembleOneshot bits m cap bytes = some [.oneshot m (BitVec.ofNat 16 bits) (BitVec.ofNat 16 cap) bytes] := by
  simp only [assembleOneshot, halfOperand_of_le hbits, halfOperand_of_le hcap, if_pos (payloadFits_iff.mpr hbytes)]

theorem assembleOneshot_of_exceeds {bits cap : Nat} (m : Mode) {bytes : List Byte}
    (h : 65535 < bits ∨ 65535 < cap ∨ 65535 < bytes.length) : assembleOneshot bits m cap bytes = none := by
  unfold assembleOneshot
  split
  case h_2 => rfl
  case h_1 hbits hcap =>
    rcases h with h | h | h
    · rw [halfOperand_of_gt h] at hbits
      cases hbits
    · rw [halfOperand_of_gt h] at hcap
      cases hcap
    · simp [payloadFits_of_gt h]

theorem assembleOneshot_wellFormed {bits cap : Nat} {m : Mode} {bytes : List Byte} {is : List Instr}
    (h : assembleOneshot bits m cap bytes = some is) : ∀ i ∈ is, i.wellFormed = true := by
  by_cases hfits : bits ≤ 65535 ∧ cap ≤ 65535 ∧ bytes.length ≤ 65535
  · obtain ⟨hbits, hcap, hbytes⟩ := hfits
    cases (assembleOneshot_of_fits m hbits hcap hbytes).symm.trans h
    simpa [Instr.wellFormed] using payloadFits_iff.mpr hbytes
  · rw [assembleOneshot_of_exceeds m (by omega)] at h
    cases h

/-- Every piece of ABSORBL is at most MAX_ABSORB bytes (R88). -/
theorem absorbPieces_fit {bytes piece : List Byte} (h : piece ∈ absorbPieces bytes) : payloadFits piece = true := by
  obtain ⟨k, -, rfl⟩ := List.mem_map.mp h
  exact decide_eq_true (List.length_take_le _ _)

theorem assembleLine_wellFormed {l : AsmLine} {is : List Instr} (h : assembleLine l = some is) :
    ∀ i ∈ is, i.wellFormed = true := by
  cases l with
  | init bits m =>
    obtain ⟨b, -, rfl⟩ := Option.map_eq_some_iff.mp h
    simp [Instr.wellFormed]
  | initf size m =>
    obtain ⟨z, -, rfl⟩ := Option.map_eq_some_iff.mp h
    simp [Instr.wellFormed]
  | absorb bytes =>
    obtain ⟨hfits, hsome⟩ := Option.ite_none_right_eq_some.mp h
    cases hsome
    simpa [Instr.wellFormed] using hfits
  | rddig idx =>
    obtain ⟨-, hsome⟩ := Option.ite_none_right_eq_some.mp h
    cases hsome
    simp [Instr.wellFormed]
  | finalize | status | context =>
    cases h
    simp [Instr.wellFormed]
  | absorbl bytes =>
    cases h
    intro i hi
    obtain ⟨piece, hpiece, rfl⟩ := List.mem_map.mp hi
    exact absorbPieces_fit hpiece
  | oneshot bits m cap bytes => exact assembleOneshot_wellFormed h
  | hash bits m bytes => exact assembleOneshot_wellFormed h

theorem sizeOfNat_of_not_mem {n : Nat} (h : n ∉ [224, 256, 384, 512]) : sizeOfNat n = none := by
  simp only [List.mem_cons, List.not_mem_nil, or_false, not_or] at h
  obtain ⟨h₁, h₂, h₃, h₄⟩ := h
  rw [sizeOfNat, if_neg h₁, if_neg h₂, if_neg h₃, if_neg h₄]

/-- Settles O50, line by line. -/
theorem assembledCommandsAreWellFormed : Obligations.AssembledCommandsAreWellFormed := by
  refine ⟨fun l is h => assembleLine_wellFormed h, ?init, ?initf, ?absorb, ?oneshot, ?hash, ?rddig⟩
  case init =>
    intro bits m h
    rw [assembleLine, halfOperand_of_gt h, Option.map_none]
  case initf =>
    intro size m h
    rw [assembleLine, sizeOfNat_of_not_mem h, Option.map_none]
  case absorb =>
    intro bytes h
    simp [assembleLine, payloadFits_of_gt h]
  case oneshot => exact fun bits m cap bytes h => assembleOneshot_of_exceeds m h
  case hash => exact fun bits m bytes h => assembleOneshot_of_exceeds m (h.imp_right .inr)
  case rddig => exact fun idx h => if_neg (Nat.not_lt.mpr h)

end Sys2Proof.Machine

/-! PROOF. The pseudo-instructions ABSORBL and HASH (spec 30_encoding R88). -/

namespace Sys2Proof.Machine

/-- Consecutive pieces of M bytes put together. -/
theorem flatten_pieces (bytes : List Byte) (M n : Nat) :
    ((List.range n).map fun k => (bytes.drop (k * M)).take M).flatten = bytes.take (n * M) := by
  induction n with
  | zero => simp
  | succ n ih => simp [List.range_succ, ih, Nat.add_mul, List.take_add]

/-- The pieces of ABSORBL are its bytes. -/
theorem absorbPieces_flatten (bytes : List Byte) : (absorbPieces bytes).flatten = bytes := by
  rw [absorbPieces, flatten_pieces]
  apply List.take_of_length_le
  have hmax := Nat.le_max_right 1 ((bytes.length + (Config.maxAbsorb - 1)) / Config.maxAbsorb)
  simp only [Config.maxAbsorb] at *
  omega

theorem absorbPieces_ne_nil (bytes : List Byte) : absorbPieces bytes ≠ [] := by
  apply List.ne_nil_of_length_pos
  rw [absorbPieces, List.length_map, List.length_range]
  exact Nat.lt_of_lt_of_le Nat.one_pos (Nat.le_max_left _ _)

/-- The ABSORBs of ABSORBL leave the context of one ABSORB (R88, R133). -/
theorem foldl_absorb_pieces (e : Engine) (bytes : List Byte) :
    (absorbPieces bytes).foldl Engine.absorb e = e.absorb bytes := by
  obtain ⟨c, chunks, hpieces⟩ := List.exists_cons_of_ne_nil (absorbPieces_ne_nil bytes)
  rw [hpieces, foldl_absorb_cons, ← hpieces, absorbPieces_flatten]

theorem accepts_of_stage {g : Stage} (h : g = .initialized ∨ g = .absorbing) : g.acceptsMessage = true := by
  rcases h with rfl | rfl <;> rfl

theorem outputBits_lt (z : SizeSel) : z.outputBits < 2 ^ 16 := by cases z <;> decide

/-- The 16-bit operand of a size (R6). -/
theorem toNat_outputBits (z : SizeSel) : (BitVec.ofNat 16 z.outputBits).toNat = z.outputBits := by
  rw [BitVec.toNat_ofNat, Nat.mod_eq_of_lt (outputBits_lt z)]

theorem toNat_outputBytes (z : SizeSel) : (BitVec.ofNat 16 z.outputBytes).toNat = z.outputBytes := by
  cases z <;> rfl

/-- HASH of a supported size runs a ONESHOT that returns the whole digest (R88). -/
theorem exec_oneshot_full (z : SizeSel) (m : Mode) (bytes : List Byte) (s : State) :
    exec (.oneshot m (BitVec.ofNat 16 z.outputBits) (BitVec.ofNat 16 z.outputBytes) bytes) s =
      .next ((s.setEngine (Engine.hashed z m bytes)).emit { status := .ok, data := digestOf z m bytes }) := by
  have hcap : (BitVec.ofNat 16 z.outputBytes).toNat ≤ (BitVec.ofNat 16 z.outputBits).toNat / 8 := by
    rw [toNat_outputBytes, toNat_outputBits, SizeSel.outputBytes]
  have h := oneshotWith_of_size (m := m) (s := s) bytes (oneshotSize_default_of_outputBits (toNat_outputBits z) hcap)
  rw [toNat_outputBytes] at h
  rw [digestOf, Engine.digest, hashed_sizeSel]
  exact h

/-- Settles O51: ABSORBL's pieces are its bytes, and HASH's CAP is the whole digest. -/
theorem pseudoInstructionsExpand : Obligations.PseudoInstructionsExpand := by
  refine ⟨fun s bytes hstage => ?absorbl, fun s z m bytes hlen => ?hash⟩
  case absorbl =>
    have h := accepts_of_stage hstage
    exact ⟨_, _, _, rfl, runCommands_absorbs _ h, exec_absorb_of_accepts bytes h, foldl_absorb_pieces _ _⟩
  case hash =>
    have hbits : z.outputBits ≤ 65535 := Nat.le_of_lt_succ (outputBits_lt z)
    refine ⟨_, _, assembleOneshot_of_fits m hbits ((Nat.div_le_self _ _).trans hbits) hlen,
      runCommands_cons_of_next [] (exec_oneshot_full z m bytes s), ?_⟩
    rfl

end Sys2Proof.Machine

/-! PROOF. Absorption in the byte view (spec 41_absorb R130, R132, R134): the position, and the bytes of an unfinished
block. -/

namespace Sys2Proof.Machine

/-! ### Lanes by their bytes -/

/-- Two lane files with the same 200 bytes are the same (R50). -/
theorem lanes_ext_bytes {a b : Lanes} (h : ∀ j, j < 200 → stateByte a j = stateByte b j) : a = b := by
  apply lanes_ext
  intro i hi
  have hbytes : memRead a (8 * i) 8 = memRead b (8 * i) 8 :=
    List.map_congr_left fun k hk => h _ (by rw [List.mem_range] at hk; omega)
  rw [← laneOfBytes_memRead a i, hbytes, laneOfBytes_memRead b i]

theorem stateByte_xorLanes (a b : Lanes) {j : Nat} (hj : j < 200) :
    stateByte (xorLanes a b) j = stateByte a j ^^^ stateByte b j := by
  rw [stateByte, lane_xorLanes a b (by omega), BitVec.extractLsb'_xor]
  rfl

theorem stateByte_lanesOfBytes (bs : List Byte) {j : Nat} (hj : j < 200) :
    stateByte (lanesOfBytes bs) j = bs.getD j 0 := by
  apply BitVec.eq_of_getLsbD_eq
  intro k hk
  have hword : (8 * (j % 8) + k) / 8 = j % 8 := by omega
  have hbit : (8 * (j % 8) + k) % 8 = k := by omega
  have hin : j % 8 < 8 := by omega
  rw [stateByte_getLsbD _ _ hk, lane_lanesOfBytes bs (by omega), laneOfBytes_getLsbD _ (by omega), hword, hbit,
    List.getD_eq_getElem?_getD, List.getElem?_take_of_lt hin, List.getElem?_drop, Nat.div_add_mod,
    List.getD_eq_getElem?_getD]

/-- The bytes of a block, zero past its end (R135). -/
theorem stateByte_blockLanes (bs : List Byte) {j : Nat} (hj : j < 200) :
    stateByte (blockLanes bs) j = bs.getD j 0 := by
  rw [blockLanes, stateByte_lanesOfBytes _ hj, List.getD_eq_getElem?_getD, List.getD_eq_getElem?_getD]
  rcases Nat.lt_or_ge j bs.length with hlt | hge
  · rw [List.getElem?_append_left hlt]
  · rw [List.getElem?_append_right hge, List.getElem?_eq_none hge, List.getElem?_replicate]
    split <;> rfl

/-! ### Absorbing within a block -/

section Absorb
variable {e : Engine}

theorem absorbByte_of_lt (b : Byte) (h : e.pos + 1 < e.sizeSel.rateBytes) :
    e.absorbByte b = { e with lanes := memXor e.lanes e.pos b, pos := e.pos + 1 } := by
  rcases absorbByte_cases e b with ⟨hfull, -⟩ | ⟨-, heq⟩
  · omega
  · exact heq

theorem absorbByte_of_full (b : Byte) (h : e.pos + 1 = e.sizeSel.rateBytes) :
    e.absorbByte b = { e with lanes := keccakF (memXor e.lanes e.pos b), pos := 0 } := by
  rcases absorbByte_cases e b with ⟨-, heq⟩ | ⟨hlt, -⟩
  · exact heq
  · exact absurd h hlt

theorem absorbByte_pos (b : Byte) (h : e.pos < e.sizeSel.rateBytes) :
    (e.absorbByte b).pos = (e.pos + 1) % e.sizeSel.rateBytes := by
  rcases absorbByte_cases e b with ⟨hfull, heq⟩ | ⟨hlt, heq⟩
  · rw [heq, hfull, Nat.mod_self]
  · rw [heq, Nat.mod_eq_of_lt (by omega)]

/-- The position counts the bytes modulo the rate (R132). -/
theorem absorbBytes_pos (bs : List Byte) (h : e.pos < e.sizeSel.rateBytes) :
    (e.absorbBytes bs).pos = (e.pos + bs.length) % e.sizeSel.rateBytes := by
  induction bs generalizing e with
  | nil => exact (Nat.mod_eq_of_lt h).symm
  | cons b bs ih =>
    have hpos := absorbByte_pos b h
    have hlt : (e.absorbByte b).pos < (e.absorbByte b).sizeSel.rateBytes := by
      rw [hpos, absorbByte_sizeSel]
      exact Nat.mod_lt _ (rateBytes_pos _)
    rw [absorbBytes_cons, ih hlt, hpos, absorbByte_sizeSel, Nat.mod_add_mod, List.length_cons, Nat.add_assoc,
      Nat.add_comm 1]

/-- Until a block fills, absorption XORs its bytes into S[pos] and the bytes after it (R130, R134). -/
theorem stateByte_absorbBytes (bs : List Byte) (h : e.pos + bs.length < e.sizeSel.rateBytes) {j : Nat} (hj : j < 200) :
    stateByte (e.absorbBytes bs).lanes j =
      if e.pos ≤ j ∧ j < e.pos + bs.length then stateByte e.lanes j ^^^ bs.getD (j - e.pos) 0
      else stateByte e.lanes j := by
  induction bs generalizing e with
  | nil => exact (if_neg (by simp)).symm
  | cons b bs ih =>
    rw [List.length_cons] at h
    have hnext := absorbByte_of_lt b (e := e) (by omega)
    have hlt : (e.absorbByte b).pos + bs.length < (e.absorbByte b).sizeSel.rateBytes := by
      simp only [hnext]
      omega
    rw [absorbBytes_cons, ih hlt, List.length_cons]
    simp only [hnext, stateByte_memXor _ _ _ hj]
    rcases Nat.lt_trichotomy j e.pos with hbefore | rfl | hafter
    · rw [if_neg (by omega), if_neg (by omega), if_neg (by omega)]
    · rw [if_neg (by omega), if_pos rfl, if_pos (by omega), Nat.sub_self, List.getD_cons_zero]
    · have hindex : j - e.pos = (j - (e.pos + 1)) + 1 := by omega
      have hrange : (e.pos + 1 ≤ j ∧ j < e.pos + 1 + bs.length) ↔ (e.pos ≤ j ∧ j < e.pos + (bs.length + 1)) := by omega
      simp only [hrange, hafter.ne', hindex, List.getD_cons_succ, if_false]

/-- The bytes that fill a block: all but the last within it, then the last and the permutation (R130). -/
theorem absorbBytes_concat_of_full (bs : List Byte) (b : Byte) (h : e.pos + bs.length + 1 = e.sizeSel.rateBytes) :
    e.absorbBytes (bs ++ [b]) =
      { e with lanes := keccakF (memXor (e.absorbBytes bs).lanes (e.sizeSel.rateBytes - 1) b), pos := 0 } := by
  have hpos : (e.absorbBytes bs).pos = e.sizeSel.rateBytes - 1 := by
    rw [absorbBytes_pos bs (by omega), Nat.mod_eq_of_lt (by omega)]
    omega
  have hfull : (e.absorbBytes bs).pos + 1 = (e.absorbBytes bs).sizeSel.rateBytes := by
    rw [hpos, absorbBytes_sizeSel]
    omega
  rw [absorbBytes_append, absorbBytes_cons, absorbBytes_nil, absorbByte_of_full b hfull, hpos]
  exact Engine.eq_of_fields rfl (absorbBytes_stage e bs) (absorbBytes_mode e bs) (absorbBytes_sizeSel e bs) rfl

end Absorb

end Sys2Proof.Machine

/-! PROOF. The block view of absorption (spec 41_absorb R135) and the sponge (42_finalize R141, R144, R147). -/

namespace Sys2Proof.Machine

/-- One block of a byte sequence, absorbed as lanes (R135). -/
def mixBlock (rate : Nat) (bs : List Byte) (a : Lanes) (k : Nat) : Lanes :=
  keccakF (xorLanes a (blockLanes (blockAt rate bs k)))

theorem absorbBlocks_eq_foldl_mixBlock (rate : Nat) (bs : List Byte) :
    absorbBlocks rate bs = (List.range (bs.length / rate)).foldl (mixBlock rate bs) zeroLanes := rfl

section Blocks
variable {e : Engine}

/-- A whole block is absorbed by one XOR of lanes and the permutation (R135). -/
theorem absorbBytes_block {block : List Byte} (hpos : e.pos = 0) (hlen : block.length = e.sizeSel.rateBytes) :
    e.absorbBytes block = { e with lanes := keccakF (xorLanes e.lanes (blockLanes block)), pos := 0 } := by
  have hne : block ≠ [] := List.ne_nil_of_length_pos (hlen ▸ rateBytes_pos e.sizeSel)
  obtain ⟨bs, b, rfl⟩ := (List.eq_nil_or_concat' block).resolve_left hne
  rw [List.length_append, List.length_singleton] at hlen
  have hlanes : memXor (e.absorbBytes bs).lanes (e.sizeSel.rateBytes - 1) b =
      xorLanes e.lanes (blockLanes (bs ++ [b])) := by
    apply lanes_ext_bytes
    intro j hj
    have hlast : e.sizeSel.rateBytes - 1 = bs.length := by omega
    rw [stateByte_memXor _ _ _ hj, stateByte_xorLanes _ _ hj, stateByte_blockLanes _ hj, hlast]
    rcases Nat.lt_trichotomy j bs.length with hbefore | rfl | hafter
    · rw [if_neg hbefore.ne, stateByte_absorbBytes bs (by omega) hj, if_pos (by omega), hpos, Nat.sub_zero,
        List.getD_append _ _ _ _ hbefore]
    · rw [if_pos rfl, stateByte_absorbBytes bs (by omega) hj, if_neg (by omega),
        List.getD_append_right _ _ _ _ le_rfl, Nat.sub_self, List.getD_cons_zero]
    · rw [if_neg hafter.ne', stateByte_absorbBytes bs (by omega) hj, if_neg (by omega),
        List.getD_eq_default _ _ (by rw [List.length_append]; exact hafter)]
      exact BitVec.xor_zero.symm
  rw [absorbBytes_concat_of_full bs b (by omega), hlanes]

/-- Absorbing k whole blocks is absorbing them one after the other (R135). -/
theorem absorbBytes_blocks (bs : List Byte) (hpos : e.pos = 0) {k : Nat} (hk : k * e.sizeSel.rateBytes ≤ bs.length) :
    e.absorbBytes (bs.take (k * e.sizeSel.rateBytes)) =
      { e with lanes := (List.range k).foldl (mixBlock e.sizeSel.rateBytes bs) e.lanes, pos := 0 } := by
  induction k with
  | zero =>
    rw [Nat.zero_mul, List.take_zero]
    exact Engine.eq_of_fields rfl rfl rfl rfl hpos
  | succ k ih =>
    rw [Nat.add_one_mul] at hk
    have hblock : (blockAt e.sizeSel.rateBytes bs k).length = e.sizeSel.rateBytes := by
      rw [blockAt, List.length_take, List.length_drop]
      omega
    rw [Nat.add_one_mul, List.take_add, ← blockAt, absorbBytes_append, ih (by omega),
      absorbBytes_block (by rfl) (by exact hblock), List.range_succ, List.foldl_append, List.foldl_cons,
      List.foldl_nil, ← mixBlock]

theorem absorbBytes_wholeBlocks {bs : List Byte} (z : SizeSel) (m : Mode) (h : bs.length % z.rateBytes = 0) :
    ((Engine.construct z m).absorbBytes bs).lanes = absorbBlocks z.rateBytes bs := by
  have hwhole : bs.length / z.rateBytes * z.rateBytes = bs.length := Nat.div_mul_cancel (Nat.dvd_of_mod_eq_zero h)
  have hblocks := absorbBytes_blocks (e := Engine.construct z m) bs rfl (k := bs.length / z.rateBytes) hwhole.le
  rw [show (Engine.construct z m).sizeSel = z from rfl, hwhole, List.take_length] at hblocks
  rw [hblocks, absorbBlocks_eq_foldl_mixBlock]
  rfl

/-- Zeros absorbed within a block change no lane. -/
theorem absorbBytes_zeros_lanes (n : Nat) (h : e.pos + n < e.sizeSel.rateBytes) :
    (e.absorbBytes (List.replicate n 0)).lanes = e.lanes := by
  apply lanes_ext_bytes
  intro j hj
  rw [stateByte_absorbBytes _ (by rwa [List.length_replicate]) hj]
  split
  · rw [List.getD_eq_getElem?_getD, List.getElem?_getD_replicate_default_eq]
    exact BitVec.xor_zero
  · rfl

/-- Two XORs into one byte are one (R140). -/
theorem memXor_memXor (a : Lanes) (j : Nat) (b c : Byte) : memXor (memXor a j b) j c = memXor a j (b ^^^ c) := by
  apply lanes_ext_bytes
  intro k hk
  rw [stateByte_memXor _ _ _ hk, stateByte_memXor _ _ _ hk, stateByte_memXor _ _ _ hk]
  split
  · subst k
    rw [stateByte_memXor _ _ _ hk, if_pos rfl, BitVec.xor_assoc]
  · rfl

/-- Bit 7 of a suffix is 0, so 0x80 is added to it by either operation (R140, R141). -/
theorem suffix_or (m : Mode) : m.suffix ||| 0x80 = m.suffix ^^^ 0x80 := by cases m <;> rfl

theorem pad_lanes (e : Engine) :
    e.pad.lanes = memXor (memXor e.lanes e.pos e.mode.suffix) (e.sizeSel.rateBytes - 1) 0x80 := rfl

/-- The padding bytes absorbed like a message have the effect of `pad` and the permutation (R141). -/
theorem absorbBytes_padBytes (h : e.pos < e.sizeSel.rateBytes) :
    (e.absorbBytes (padBytes e.sizeSel.rateBytes e.pos e.mode)).lanes = keccakF e.pad.lanes := by
  rw [pad_lanes]
  by_cases hlast : e.pos + 1 = e.sizeSel.rateBytes
  · have hpos : e.sizeSel.rateBytes - 1 = e.pos := by omega
    rw [padBytes, if_pos hlast, absorbBytes_cons, absorbBytes_nil, absorbByte_of_full _ hlast, hpos, memXor_memXor,
      suffix_or]
  · have hnext := absorbByte_of_lt e.mode.suffix (e := e) (by omega)
    have hzeros := absorbBytes_zeros_lanes (e := e.absorbByte e.mode.suffix) (e.sizeSel.rateBytes - e.pos - 2)
      (by simp only [hnext]; omega)
    rw [padBytes, if_neg hlast, ← List.cons_append, absorbBytes_concat_of_full, absorbBytes_cons, hzeros, hnext]
    -- the bytes before the last one fill the block up to it
    rw [List.length_cons, List.length_replicate]
    omega

end Blocks

theorem padBytes_length {rate q : Nat} (m : Mode) (h : q < rate) : (padBytes rate q m).length = rate - q := by
  unfold padBytes
  split
  · rw [List.length_singleton]
    omega
  · rw [List.length_cons, List.length_append, List.length_replicate, List.length_singleton]
    omega

/-- The padded message is a whole number of blocks (R141). -/
theorem paddedMessage_length_mod (z : SizeSel) (m : Mode) (msg : List Byte) :
    (paddedMessage z.rateBytes m msg).length % z.rateBytes = 0 := by
  have hq := Nat.mod_lt msg.length (rateBytes_pos z)
  have hdiv := Nat.div_add_mod msg.length z.rateBytes
  rw [paddedMessage, List.length_append, padBytes_length m hq]
  have hwhole : msg.length + (z.rateBytes - msg.length % z.rateBytes) =
      z.rateBytes * (msg.length / z.rateBytes + 1) := by
    rw [Nat.mul_add_one]
    omega
  rw [hwhole, Nat.mul_mod_right]

/-- The byte-at-a-time digest is the sponge over the padded message (R144, R147). -/
theorem digestOf_eq_spongeDigest (z : SizeSel) (m : Mode) (msg : List Byte) :
    digestOf z m msg = spongeDigest z m msg := by
  have hpos : ((Engine.construct z m).absorbBytes msg).pos = msg.length % z.rateBytes := by
    rw [absorbBytes_pos msg (rateBytes_pos z), Engine.construct, Nat.zero_add]
  have hpad := absorbBytes_padBytes (e := (Engine.construct z m).absorbBytes msg)
    (by rw [hpos, absorbBytes_sizeSel]; exact Nat.mod_lt _ (rateBytes_pos z))
  rw [hpos, absorbBytes_sizeSel, absorbBytes_mode, ← absorbBytes_append] at hpad
  rw [digestOf, Engine.digest, hashed_sizeSel, spongeDigest,
    ← absorbBytes_wholeBlocks z m (paddedMessage_length_mod z m msg)]
  exact congrArg (memRead · 0 z.outputBytes) hpad.symm

end Sys2Proof.Machine

/-! PROOF. A whole hashing sequence, sent as transactions (spec 42_finalize R147, 41_absorb R133, 30_encoding R70). -/

namespace Sys2Proof.Machine

/-- ABSORBs of any chunks and a FINALIZE, in a context that accepts a message, are answered OK, with the digest of the
context that an ABSORB of the concatenation leaves. -/
theorem runCommands_absorbs_finalize (chunks : List (List Byte)) {s : State}
    (h : s.engine.stage.acceptsMessage = true) :
    runCommands (chunks.map Instr.absorb ++ [.finalize]) s =
      .next { engine := (s.engine.absorb chunks.flatten).finalize, commandPort := s.commandPort,
              responsePort := s.responsePort ++
                (List.replicate chunks.length { status := .ok, data := [] } ++
                  [{ status := .ok, data := (s.engine.absorb chunks.flatten).finalize.digest }]) } := by
  rw [runCommands_append_of_next _ (runCommands_absorbs chunks h),
    runCommands_cons_of_next _ (exec_finalize_of_accepts (foldl_absorb_accepts chunks h)), ← List.append_assoc]
  simp only [finalize_foldl_absorb]
  rfl

/-- INIT, ABSORBs of any chunks and FINALIZE (R170). -/
def hashingCommands (z : SizeSel) (m : Mode) (chunks : List (List Byte)) : List Instr :=
  .init m (BitVec.ofNat 16 z.outputBits) :: (chunks.map Instr.absorb ++ [.finalize])

theorem hashingCommands_length (z : SizeSel) (m : Mode) (chunks : List (List Byte)) :
    (hashingCommands z m chunks).length = chunks.length + 2 := by
  simp [hashingCommands]

theorem hashingCommands_wellFormed (z : SizeSel) (m : Mode) {chunks : List (List Byte)}
    (h : ∀ c ∈ chunks, c.length ≤ 65535) : ∀ i ∈ hashingCommands z m chunks, i.wellFormed = true := by
  intro i hi
  simp only [hashingCommands, List.mem_cons, List.mem_append, List.mem_map, List.not_mem_nil, or_false] at hi
  rcases hi with rfl | ⟨c, hc, rfl⟩ | rfl
  · rfl
  · exact payloadFits_iff.mpr (h c hc)
  · rfl

/-- The sequence is answered OK throughout, with the digest of the chunks' concatenation at the end. -/
theorem runCommands_hashingCommands (z : SizeSel) (m : Mode) (chunks : List (List Byte)) (s : State) :
    runCommands (hashingCommands z m chunks) s =
      .next { engine := Engine.hashed z m chunks.flatten, commandPort := s.commandPort,
              responsePort := s.responsePort ++
                (List.replicate (chunks.length + 1) { status := .ok, data := [] } ++
                  [{ status := .ok, data := digestOf z m chunks.flatten }]) } := by
  have hinit := exec_init_of_size (m := m) (s := s) (sizeOfBits_of_outputBits (toNat_outputBits z))
  rw [hashingCommands, runCommands_cons_of_next _ hinit, runCommands_absorbs_finalize chunks (by rfl),
    State.emit_responsePort, List.append_assoc, List.singleton_append]
  rfl

/-- Settles O48: the encoded sequence runs as its commands, and the engine's digest is the sponge's. -/
theorem hashingTransactionsReturnTheSpongeDigest : Obligations.HashingTransactionsReturnTheSpongeDigest := by
  intro s z m chunks later hchunks hport
  have hsent : s.commandPort = sendCommands (hashingCommands z m chunks) ++ later := by
    rw [hport]
    simp [sendCommands, hashingCommands]
  have hrun := runSteps_sendCommands _ later (hashingCommands_wellFormed z m hchunks) hsent
  rw [hashingCommands_length, runCommands_hashingCommands, digestOf_eq_spongeDigest] at hrun
  exact ⟨_, hrun, rfl, finalize_stage _, rfl⟩

end Sys2Proof.Machine

/-! PROOF. `ROL64` (spec 00_scope R11) as the library's rotation, bit by bit. -/

namespace Sys2Proof.Machine

/-- Bit i of a rotated lane is the bit n places below, counted around the lane: 63n is -n mod 64. -/
theorem getLsbD_rotateLeft_mod (v : Lane) (n : Nat) {i : Nat} (hi : i < 64) :
    (v.rotateLeft n).getLsbD i = v.getLsbD ((i + 63 * n) % 64) := by
  rw [BitVec.getLsbD_rotateLeft]
  by_cases h : i < n % 64
  · have hbit : (i + 63 * n) % 64 = 64 - n % 64 + i := by omega
    simp [h, hbit]
  · have hbit : (i + 63 * n) % 64 = i - n % 64 := by omega
    simp [h, hi, hbit]

/-- With `BitVec.xor_comm` and `BitVec.xor_assoc`, this puts the terms of a sum of lanes in one order. -/
theorem lane_xor_left_comm (u v w : Lane) : u ^^^ (v ^^^ w) = v ^^^ (u ^^^ w) := by
  rw [← BitVec.xor_assoc, BitVec.xor_comm u v, BitVec.xor_assoc]

theorem lane_xor_cancel_left (v w : Lane) : v ^^^ (v ^^^ w) = w := by
  rw [← BitVec.xor_assoc, BitVec.xor_self, BitVec.zero_xor]

theorem rotateLeft_xor (v w : Lane) (n : Nat) : (v ^^^ w).rotateLeft n = v.rotateLeft n ^^^ w.rotateLeft n := by
  apply BitVec.eq_of_getLsbD_eq
  intro i hi
  simp only [BitVec.getLsbD_xor, getLsbD_rotateLeft_mod _ n hi]

theorem rotateLeft_rotateLeft (v : Lane) (m n : Nat) : (v.rotateLeft m).rotateLeft n = v.rotateLeft (m + n) := by
  apply BitVec.eq_of_getLsbD_eq
  intro i hi
  have hbit : ((i + 63 * n) % 64 + 63 * m) % 64 = (i + 63 * (m + n)) % 64 := by omega
  rw [getLsbD_rotateLeft_mod _ n hi, getLsbD_rotateLeft_mod _ m (Nat.mod_lt _ (by decide)),
    getLsbD_rotateLeft_mod _ (m + n) hi, hbit]

theorem rotateLeft_wholeTurns (v : Lane) (n : Nat) : v.rotateLeft (64 * n) = v := by
  apply BitVec.eq_of_getLsbD_eq
  intro i hi
  have hbit : (i + 63 * (64 * n)) % 64 = i := by omega
  rw [getLsbD_rotateLeft_mod _ _ hi, hbit]

theorem rol64_eq_rotateLeft (v : Lane) (n : Nat) : rol64 v n = v.rotateLeft n := by
  unfold rol64
  split
  case isTrue h =>
    rw [← BitVec.rotateLeft_mod_eq_rotateLeft, h]
    exact (rotateLeft_wholeTurns v 0).symm
  case isFalse => rfl

/-- Rotating a lane 63n places further completes n turns. -/
theorem rotateLeft_injective (n : Nat) : Function.Injective fun v : Lane => v.rotateLeft n := by
  have hturn : Function.LeftInverse (fun v : Lane => v.rotateLeft (63 * n)) (fun v : Lane => v.rotateLeft n) := by
    intro v
    dsimp only
    have hsum : n + 63 * n = 64 * n := by omega
    rw [rotateLeft_rotateLeft, hsum, rotateLeft_wholeTurns]
  exact hturn.injective

end Sys2Proof.Machine

/-! PROOF. The lane (x, y) of each step mapping (spec 40_permutation R102 to R108). -/

namespace Sys2Proof.Machine

/-! ### Lanes by their coordinates -/

/-- The coordinates count mod 5 (R12). -/
theorem laneXY_congr (a : Lanes) {x x' y y' : Nat} (hx : x % 5 = x' % 5) (hy : y % 5 = y' % 5) :
    laneXY a x y = laneXY a x' y' := by
  rw [laneXY, laneXY, hx, hy]

theorem lane_eq_laneXY (a : Lanes) {x y : Nat} (hx : x < 5) (hy : y < 5) : lane a (x + 5 * y) = laneXY a x y := by
  rw [laneXY, Nat.mod_eq_of_lt hx, Nat.mod_eq_of_lt hy]

theorem lane_eq_laneXY_div (a : Lanes) {i : Nat} (h : i < 25) : lane a i = laneXY a (i % 5) (i / 5) := by
  rw [← lane_eq_laneXY a (by omega) (by omega), Nat.mod_add_div]

theorem lanes_ext_laneXY {a b : Lanes} (h : ∀ x y, laneXY a x y = laneXY b x y) : a = b :=
  lanes_ext fun _ hi => by rw [lane_eq_laneXY_div a hi, lane_eq_laneXY_div b hi, h]

theorem laneXY_buildLanes (f : Nat → Nat → Lane) (x y : Nat) : laneXY (buildLanes f) x y = f (x % 5) (y % 5) := by
  have hx : (x % 5 + 5 * (y % 5)) % 5 = x % 5 := by omega
  have hy : (x % 5 + 5 * (y % 5)) / 5 = y % 5 := by omega
  rw [laneXY, lane_buildLanes f (by omega), hx, hy]

/-! ### The step mappings -/

theorem columnParity_periodic (a : Lanes) : Function.Periodic (columnParity a) 5 := by
  intro x
  simp [columnParity, laneXY]

theorem thetaEffect_mod (a : Lanes) (x : Nat) : thetaEffect a (x % 5) = thetaEffect a x := by
  simp [thetaEffect, columnParity, laneXY]

theorem laneXY_theta (a : Lanes) (x y : Nat) : laneXY (theta a) x y = laneXY a x y ^^^ thetaEffect a x := by
  rw [theta, laneXY_buildLanes, thetaEffect_mod, laneXY_congr a (Nat.mod_mod x 5) (Nat.mod_mod y 5)]

theorem laneXY_rho (a : Lanes) (x y : Nat) :
    laneXY (rho a) x y = (laneXY a x y).rotateLeft (rhoOffset (x % 5) (y % 5)) := by
  rw [rho, laneXY_buildLanes, rol64_eq_rotateLeft, laneXY_congr a (Nat.mod_mod x 5) (Nat.mod_mod y 5)]

theorem laneXY_pi (a : Lanes) (x y : Nat) : laneXY (pi a) x y = laneXY a (x + 3 * y) x := by
  rw [pi, laneXY_buildLanes]
  exact laneXY_congr a (by omega) (Nat.mod_mod x 5)

theorem laneXY_chi (a : Lanes) (x y : Nat) :
    laneXY (chi a) x y = laneXY a x y ^^^ (~~~(laneXY a (x + 1) y) &&& laneXY a (x + 2) y) := by
  rw [chi, laneXY_buildLanes]
  simp [laneXY]

theorem lane_iota (a : Lanes) (ir : Nat) {i : Nat} (h : i < 25) :
    lane (iota a ir) i = if i = 0 then lane a i ^^^ roundConstant ir else lane a i := by
  rw [iota, lane_set _ _ _ h]
  by_cases hi : i = 0
  · simp [hi]
  · simp [hi, Ne.symm hi]

/-- ρ by lane index: the offset is the table's entry. -/
theorem lane_rho (a : Lanes) {i : Nat} (h : i < 25) : lane (rho a) i = (lane a i).rotateLeft (rhoTable.getD i 0) := by
  have hindex : i % 5 % 5 + 5 * (i / 5 % 5) = i := by omega
  rw [lane_eq_laneXY_div _ h, laneXY_rho, ← lane_eq_laneXY_div a h, rhoOffset, hindex]

/-- `PI_SRC` (R106): the input lane of each of π's output lanes. -/
def piSource : List Nat := [0, 6, 12, 18, 24, 3, 9, 10, 16, 22, 1, 7, 13, 19, 20, 4, 5, 11, 17, 23, 2, 8, 14, 15, 21]

theorem piSource_eq : ∀ d, d < 25 → piSource.getD d 0 = (d % 5 + 3 * (d / 5)) % 5 + 5 * (d % 5) := by decide

/-- π by lane index. -/
theorem lane_pi (a : Lanes) {d : Nat} (h : d < 25) : lane (pi a) d = lane a (piSource.getD d 0) := by
  rw [lane_eq_laneXY_div _ h, laneXY_pi, laneXY, Nat.mod_mod, piSource_eq d h]

/-! ### The obligations -/

/-- Settles O11: θ in coordinates, and its column parities by lane index. -/
theorem thetaByLane : Obligations.ThetaByLane := by
  intro a x y hx hy
  rw [lane_eq_laneXY _ hx hy, lane_eq_laneXY _ hx hy, laneXY_theta, thetaEffect, rol64_eq_rotateLeft]
  rfl

/-- Settles O12: ρ and π by lane index; the lane at (y, 2x + 3y) comes from column y + 3(2x + 3y), which is x mod 5. -/
theorem rhoAndPiByLane : Obligations.RhoAndPiByLane := by
  refine fun a => ⟨fun i hi => lane_rho a hi, fun d hd => lane_pi a hd, fun x y hx hy => ?_, fun x y hx hy => ?_⟩
  · rw [lane_eq_laneXY _ hx hy, laneXY_pi, laneXY, Nat.mod_eq_of_lt hx]
  · rw [lane_eq_laneXY _ hy (Nat.mod_lt _ (by decide)), lane_eq_laneXY _ hx hy, laneXY_pi]
    exact laneXY_congr a (by omega) rfl

/-- Settles O13: χ in coordinates, read at one bit, and ι by lane index. -/
theorem chiAndIotaByLane : Obligations.ChiAndIotaByLane := by
  refine fun a => ⟨fun x y z hx hy hz => ?_, fun ir => lane_iota a ir (by decide), fun ir i hpos hi => ?_⟩
  · have h1 : (x + 1) % 5 < 5 := Nat.mod_lt _ (by decide)
    have h2 : (x + 2) % 5 < 5 := Nat.mod_lt _ (by decide)
    rw [lane_eq_laneXY _ hx hy, lane_eq_laneXY _ hx hy, lane_eq_laneXY _ h1 hy, lane_eq_laneXY _ h2 hy, laneXY_chi,
      laneXY_congr a (Nat.mod_mod (x + 1) 5) rfl, laneXY_congr a (Nat.mod_mod (x + 2) 5) rfl]
    simp [hz]
  · rw [lane_iota a ir hi, if_neg (Nat.ne_of_gt hpos)]

end Sys2Proof.Machine

/-! PROOF. The in-place chain is ρ followed by π (spec 40_permutation R113): after n iterations the first n targets hold their
lanes of π(ρ(A)), the others are untouched, and t holds the lane the next iteration rotates. -/

namespace Sys2Proof.Machine

/-- The lane the iteration n rotates: A[1] at first, then the lane the iteration before saved. -/
def chainSource (n : Nat) : Nat := (1 :: chainTargets).getD n 0

/-- A target is a lane past 0 whose lane of π(ρ(A)) is the iteration's source, rotated by the iteration's offset. -/
theorem chainTarget_spec : ∀ n, n < 24 →
    chainTargets.getD n 0 < 25 ∧ piSource.getD (chainTargets.getD n 0) 0 = chainSource n ∧ chainSource n < 25 ∧
      chainRotations.getD n 0 = rhoTable.getD (chainSource n) 0 ∧ chainTargets.getD n 0 ∉ chainTargets.take n := by
  decide

theorem mem_chainTargets_iff : ∀ i, i < 25 → (i ∈ chainTargets ↔ i ≠ 0) := by decide

theorem take_chainTargets_succ : ∀ n, n < 24 →
    chainTargets.take (n + 1) = chainTargets.take n ++ [chainTargets.getD n 0] := by decide

theorem lane_pi_rho_chainTarget (a : Lanes) {n : Nat} (hn : n < 24) :
    lane (pi (rho a)) (chainTargets.getD n 0) = rol64 (lane a (chainSource n)) (chainRotations.getD n 0) := by
  obtain ⟨htarget, hpi, hsource, hrotation, -⟩ := chainTarget_spec n hn
  rw [lane_pi _ htarget, hpi, lane_rho a hsource, hrotation, rol64_eq_rotateLeft]

theorem lane_pi_rho_zero (a : Lanes) : lane (pi (rho a)) 0 = lane a 0 := by
  rw [lane_pi _ (by decide)]
  exact (lane_rho a (by decide)).trans (rotateLeft_wholeTurns _ 0)

/-- The lanes and t after n iterations. -/
def chainAfter (a : Lanes) (n : Nat) : Lanes × Lane := (List.range n).foldl chainStep (a, lane a 1)

theorem chainAfter_succ (a : Lanes) (n : Nat) : chainAfter a (n + 1) = chainStep (chainAfter a n) n := by
  simp [chainAfter, List.range_succ]

theorem lane_chainAfter (a : Lanes) {n : Nat} (hn : n ≤ 24) :
    (chainAfter a n).2 = lane a (chainSource n) ∧
      ∀ i, i < 25 → lane (chainAfter a n).1 i = if i ∈ chainTargets.take n then lane (pi (rho a)) i else lane a i := by
  induction n with
  | zero => exact ⟨rfl, fun i _ => by simp [chainAfter]⟩
  | succ n ih =>
    obtain ⟨hsaved, hlanes⟩ := ih (by omega)
    obtain ⟨htarget, -, -, -, hfresh⟩ := chainTarget_spec n hn
    rw [chainAfter_succ, chainStep]
    constructor
    · rw [hlanes _ htarget, if_neg hfresh]
      rfl
    · intro i hi
      rw [lane_set _ _ _ hi, hsaved, ← lane_pi_rho_chainTarget a hn, hlanes i hi, take_chainTargets_succ n hn]
      simp only [List.mem_append, List.mem_singleton]
      by_cases h : chainTargets.getD n 0 = i
      · simp only [h, if_true, or_true]
      · simp only [h, Ne.symm h, if_false, or_false]

/-- Settles O14: the 24 targets are the lanes past 0, and lane 0 is fixed by ρ and by π. -/
theorem rhoPiChainIsRhoThenPi : Obligations.RhoPiChainIsRhoThenPi := by
  intro a
  obtain ⟨-, hlanes⟩ := lane_chainAfter a (Nat.le_refl 24)
  apply lanes_ext
  intro i hi
  rw [rhoPiChain, ← chainAfter, hlanes i hi]
  by_cases h : i = 0
  · rw [h, lane_pi_rho_zero, ite_self]
  · exact if_pos ((mem_chainTargets_iff i hi).mpr h)

end Sys2Proof.Machine

/-! PROOF. Every step mapping is injective, and so is the permutation (spec 40_permutation R112). -/

namespace Sys2Proof.Machine

/-! ### θ

θ adds to each lane an effect that the five column parities determine, and each column has five lanes, so the parities after θ
are the parities before, mixed with each other. Mixing twice at distance p is mixing once at distance 2p, so equal mixes at
distance 1 are equal mixes at distance 64, where the rotation is by a whole turn and the columns alone mix. -/

/-- Each column with the columns p before and p after, the latter rotated by p. -/
def columnMix (p : Nat) (c : Nat → Lane) (x : Nat) : Lane := c x ^^^ c (x + 4 * p) ^^^ (c (x + p)).rotateLeft p

theorem periodic_congr {c : Nat → Lane} (hc : Function.Periodic c 5) {m n : Nat} (h : m % 5 = n % 5) : c m = c n := by
  rw [← hc.map_mod_nat m, h, hc.map_mod_nat]

theorem columnParity_theta (a : Lanes) : columnParity (theta a) = columnMix 1 (columnParity a) := by
  funext x
  have heffect : columnParity (theta a) x = columnParity a x ^^^ thetaEffect a x := by
    simp only [columnParity, laneXY_theta]
    simp only [BitVec.xor_assoc, BitVec.xor_comm, lane_xor_left_comm, lane_xor_cancel_left]
  rw [heffect, thetaEffect, rol64_eq_rotateLeft, columnMix, BitVec.xor_assoc]

theorem columnMix_columnMix {c : Nat → Lane} (hc : Function.Periodic c 5) (p : Nat) :
    columnMix p (columnMix p c) = columnMix (2 * p) c := by
  funext x
  have hback : c (x + 4 * p + p) = c x := periodic_congr hc (by omega)
  have hforth : c (x + p + 4 * p) = c x := periodic_congr hc (by omega)
  have htwice : x + 4 * p + 4 * p = x + 4 * (2 * p) ∧ x + p + p = x + 2 * p ∧ p + p = 2 * p := by omega
  simp only [columnMix, rotateLeft_xor, rotateLeft_rotateLeft, hback, hforth, htwice]
  simp only [BitVec.xor_assoc, BitVec.xor_comm, lane_xor_left_comm, lane_xor_cancel_left]

theorem columnMix_double {c d : Nat → Lane} (hc : Function.Periodic c 5) (hd : Function.Periodic d 5) {p : Nat}
    (h : columnMix p c = columnMix p d) : columnMix (2 * p) c = columnMix (2 * p) d := by
  rw [← columnMix_columnMix hc, h, columnMix_columnMix hd]

/-- At distance 64, which is 4 mod 5, the rotation is by a whole turn. -/
theorem columnMix_wholeTurn {c : Nat → Lane} (hc : Function.Periodic c 5) (x : Nat) :
    columnMix 64 c x = c x ^^^ c (x + 1) ^^^ c (x + 4) := by
  have hbefore : c (x + 4 * 64) = c (x + 1) := periodic_congr hc (by omega)
  have hafter : c (x + 64) = c (x + 4) := periodic_congr hc (by omega)
  rw [columnMix, hbefore, hafter]
  exact congrArg _ (rotateLeft_wholeTurns _ 1)

/-- A column is the sum of three of the mixes at distance 64: its own and those 2 and 3 after it. -/
theorem eq_columnMix_wholeTurn {c : Nat → Lane} (hc : Function.Periodic c 5) (x : Nat) :
    c x = columnMix 64 c x ^^^ columnMix 64 c (x + 2) ^^^ columnMix 64 c (x + 3) := by
  have hsix : c (x + 6) = c (x + 1) := periodic_congr hc (by omega)
  have hseven : c (x + 7) = c (x + 2) := periodic_congr hc (by omega)
  simp only [columnMix_wholeTurn hc, Nat.add_assoc, Nat.reduceAdd, hsix, hseven]
  simp only [BitVec.xor_assoc, BitVec.xor_comm, lane_xor_left_comm, lane_xor_cancel_left, BitVec.xor_self,
    BitVec.xor_zero]

theorem columnMix_injective {c d : Nat → Lane} (hc : Function.Periodic c 5) (hd : Function.Periodic d 5)
    (h : columnMix 1 c = columnMix 1 d) : c = d := by
  have hpower : ∀ k, columnMix (2 ^ k) c = columnMix (2 ^ k) d := by
    intro k
    induction k with
    | zero => exact h
    | succ k ih => rw [Nat.pow_succ']; exact columnMix_double hc hd ih
  have hturn : columnMix 64 c = columnMix 64 d := hpower 6
  funext x
  rw [eq_columnMix_wholeTurn hc, eq_columnMix_wholeTurn hd, hturn]

theorem theta_injective : Function.Injective theta := by
  intro a b h
  have hparity : columnParity a = columnParity b := by
    apply columnMix_injective (columnParity_periodic a) (columnParity_periodic b)
    rw [← columnParity_theta, ← columnParity_theta, h]
  apply lanes_ext_laneXY
  intro x y
  have hlane : laneXY (theta a) x y = laneXY (theta b) x y := by rw [h]
  rw [laneXY_theta, laneXY_theta, thetaEffect, thetaEffect, hparity] at hlane
  exact (BitVec.xor_left_inj _).mp hlane

/-! ### The other step mappings -/

theorem rho_injective : Function.Injective rho := by
  intro a b h
  apply lanes_ext
  intro i hi
  apply rotateLeft_injective (rhoTable.getD i 0)
  simp only [← lane_rho _ hi, h]

/-- The lane at (x, y) is found at (y, 2x + 3y) (R106). -/
theorem laneXY_of_pi (a : Lanes) (x y : Nat) : laneXY a x y = laneXY (pi a) y (2 * x + 3 * y) := by
  rw [laneXY_pi]
  exact laneXY_congr a (by omega) rfl

theorem pi_injective : Function.Injective pi := fun a b h =>
  lanes_ext_laneXY fun x y => by rw [laneXY_of_pi a, laneXY_of_pi b, h]

/-- χ's inverse on a bit of a row, from the row's five bits after χ. -/
theorem chi_bit_inverse : ∀ a b c d e : Bool,
    a = (a ^^ (!b && c) ^^
      (!(b ^^ (!c && d)) && (c ^^ (!d && e) ^^ (!(d ^^ (!e && a)) && (e ^^ (!a && b)))))) := by decide

/-- χ's inverse: a lane from the five lanes of its row after χ. -/
theorem laneXY_of_chi (a : Lanes) (x y : Nat) :
    laneXY a x y = laneXY (chi a) x y ^^^ (~~~(laneXY (chi a) (x + 1) y) &&&
      (laneXY (chi a) (x + 2) y ^^^ (~~~(laneXY (chi a) (x + 3) y) &&& laneXY (chi a) (x + 4) y))) := by
  have hfive : laneXY a (x + 5) y = laneXY a x y := laneXY_congr a (by omega) rfl
  have hsix : laneXY a (x + 6) y = laneXY a (x + 1) y := laneXY_congr a (by omega) rfl
  simp only [laneXY_chi, Nat.add_assoc, Nat.reduceAdd, hfive, hsix]
  ext i hi
  simp only [BitVec.getElem_xor, BitVec.getElem_and, BitVec.getElem_not]
  exact chi_bit_inverse _ _ _ _ _

theorem chi_injective : Function.Injective chi := fun a b h =>
  lanes_ext_laneXY fun x y => by rw [laneXY_of_chi a, laneXY_of_chi b, h]

theorem iota_injective (ir : Nat) : Function.Injective fun a => iota a ir := by
  intro a b h
  apply lanes_ext
  intro i hi
  have hlane : lane (iota a ir) i = lane (iota b ir) i := congrArg (lane · i) h
  rw [lane_iota a ir hi, lane_iota b ir hi] at hlane
  split at hlane
  · exact (BitVec.xor_left_inj _).mp hlane
  · exact hlane

/-! ### The permutation -/

theorem rnd_injective (ir : Nat) : Function.Injective fun a => rnd a ir :=
  (iota_injective ir).comp <| chi_injective.comp <| pi_injective.comp <| rho_injective.comp theta_injective

theorem foldl_rnd_injective (irs : List Nat) : Function.Injective fun a => irs.foldl rnd a := by
  induction irs with
  | nil => exact Function.injective_id
  | cons ir irs ih => exact ih.comp (rnd_injective ir)

/-- Settles O15: each step mapping is injective, so each round is, and so are the rounds one after the other. -/
theorem keccakFIsInjective : Obligations.KeccakFIsInjective :=
  fun _ _ h => foldl_rnd_injective (List.range Config.rounds) h

end Sys2Proof.Machine

/-! PROOF. The rounds of the permutation in order (spec 40_permutation R101, R111), and the tables of constants (R104, R105,
R109, R110). -/

namespace Sys2Proof.Machine

/-- The lanes after the first n rounds. -/
def afterRounds (a : Lanes) (n : Nat) : Lanes := (List.range n).foldl rnd a

theorem afterRounds_succ (a : Lanes) (n : Nat) : afterRounds a (n + 1) = rnd (afterRounds a n) n := by
  simp [afterRounds, List.range_succ]

/-- Settles O52: the 25 lane files are those after the first n rounds. -/
theorem keccakFIsTwentyFourRoundsInOrder : Obligations.KeccakFIsTwentyFourRoundsInOrder :=
  ⟨fun _ _ => rfl, fun a => ⟨afterRounds a, rfl, fun ir _ => afterRounds_succ a ir, rfl⟩⟩

theorem rhoGenerated_eq : rhoGenerated = rhoTable := by decide

theorem rcGenerated_eq : ∀ ir, ir < 24 → rcGenerated ir = roundConstant ir := by decide +kernel

theorem roundConstant_clear : ∀ ir, ir < 24 → ∀ z, z < 64 → z ∉ [0, 1, 3, 7, 15, 31, 63] →
    (roundConstant ir).getLsbD z = false := by decide +kernel

/-- Settles O10: both tables are finite, and evaluated. -/
theorem keccakTablesMatchTheirGenerators : Obligations.KeccakTablesMatchTheirGenerators :=
  ⟨rhoGenerated_eq, rcGenerated_eq, fun ir z hir hz => roundConstant_clear ir hir z hz⟩

end Sys2Proof.Machine

/-! PROOF. The result of ABSORB in every stage, and the transactions of its opcode that spell no command (spec 41_absorb
R130, R131, 30_encoding R75, R85). -/

namespace Sys2Proof.Machine

/-- The fold over the payload, byte by byte (R130, R131). -/
theorem absorbBytes_eq_foldl (e : Engine) (bytes : List Byte) :
    e.absorbBytes bytes = bytes.foldl (fun (e : Engine) b =>
      if e.pos + 1 = e.sizeSel.rateBytes then { e with lanes := keccakF (memXor e.lanes e.pos b), pos := 0 }
      else { e with lanes := memXor e.lanes e.pos b, pos := e.pos + 1 }) e := by
  apply List.foldl_ext
  intro e b _
  rcases absorbByte_cases e b with ⟨hfull, h⟩ | ⟨hlt, h⟩
  · rw [h, if_pos hfull]
  · rw [h, if_neg hlt]

theorem rejects_of_stage {g : Stage} (h : g = .noContext ∨ g = .finalized) : g.acceptsMessage = false := by
  rcases h with rfl | rfl <;> rfl

/-- A transaction that spells no command is illegal (R84, R85). -/
theorem illegal_of_not_spells {ws : Transaction} (h : ∀ i, ¬ Spells ws i) : ∃ err, decode ws = .illegal err := by
  cases hd : decode ws with
  | cmd i => exact absurd (spells_of_decode hd) (h i)
  | illegal err => exact ⟨err, rfl⟩

/-- Under ABSORB's opcode a command needs reserved bits 0 and the word count of N (R75). -/
theorem format_of_spells_absorb {w : Word} {rest : List Word} {i : Instr} (hop : opcodeField w = 3)
    (h : Spells (w :: rest) i) : w.extractLsb' 16 12 = 0 ∧ rest.length = payloadWords (lowHalf w).toNat := by
  cases h with
  | absorb _ reserved count => exact ⟨(reserved_absorb w).mp reserved, count⟩
  | init op | initf op | finalize op | oneshot op | rddig op | status op => simp [op] at hop

/-- Settles O24: the stage decides whether the payload is folded in, and a malformed transaction breaks the format. -/
theorem absorbResult : Obligations.AbsorbResult := by
  refine fun bytes s => ⟨fun hstage => ?accepts, fun hstage => ?rejects, fun w rest hop hbad => ?malformed⟩
  case accepts =>
    rw [exec_absorb_of_accepts bytes (accepts_of_stage hstage), Engine.absorb, absorbBytes_eq_foldl]
    rfl
  case rejects => exact exec_absorb_of_rejects bytes (rejects_of_stage hstage)
  case malformed =>
    refine illegal_of_not_spells fun i hi => ?_
    obtain ⟨hreserved, hcount⟩ := format_of_spells_absorb hop hi
    exact hbad.elim (· hreserved) (· hcount)

end Sys2Proof.Machine

/-! PROOF. Padding, the results of FINALIZE and RDDIG in every stage, and the frozen context (spec 42_finalize R140 to R147). -/

namespace Sys2Proof.Machine

/-! ### Padding -/

/-- `MemXor` XORs byte j with b and every other byte with 0 (R12). -/
theorem stateByte_memXor_eq_xor (a : Lanes) (j : Nat) (b : Byte) {k : Nat} (hk : k < 200) :
    stateByte (memXor a j b) k = stateByte a k ^^^ (if k = j then b else 0) := by
  rw [stateByte_memXor a j b hk]
  split
  case isTrue hsame => rw [hsame]
  case isFalse => exact BitVec.xor_zero.symm

/-- Each byte takes the XOR of the suffix, of 0x80, of both where they meet, or of neither (R141). -/
theorem stateByte_pad (e : Engine) {j : Nat} (hj : j < 200) :
    stateByte e.pad.lanes j = stateByte e.lanes j ^^^
      (if j = e.pos ∧ j = e.sizeSel.rateBytes - 1 then e.mode.suffix ||| 0x80
       else if j = e.pos then e.mode.suffix
       else if j = e.sizeSel.rateBytes - 1 then 0x80 else 0) := by
  rw [pad_lanes, stateByte_memXor_eq_xor _ _ _ hj, stateByte_memXor_eq_xor _ _ _ hj, BitVec.xor_assoc]
  congr 1
  by_cases hpos : j = e.pos
  · by_cases hlast : j = e.sizeSel.rateBytes - 1
    · rw [if_pos hpos, if_pos hlast, if_pos ⟨hpos, hlast⟩, suffix_or]
    · simp only [hlast, and_false, if_false]
      exact BitVec.xor_zero
  · simp only [hpos, false_and, if_false]
    exact BitVec.zero_xor

theorem suffix_bit7 (m : Mode) : m.suffix.getLsbD 7 = false := by cases m <;> rfl

/-- Settles O20: padding is two byte XORs into the lanes. -/
theorem paddingBytes : Obligations.PaddingBytes :=
  ⟨rfl, rfl, suffix_bit7, fun e _ _ hj => stateByte_pad e hj, fun _ => ⟨rfl, rfl, rfl, rfl⟩⟩

/-- Settles O21: padding fills the last block, and the padding bytes absorbed are `pad` and the permutation. -/
theorem digestIsTheSpongeOfThePaddedMessage : Obligations.DigestIsTheSpongeOfThePaddedMessage :=
  fun z m msg => ⟨paddedMessage_length_mod z m msg, digestOf_eq_spongeDigest z m msg⟩

/-! ### The frozen context -/

/-- A command that constructs no context answers a Finalized one and writes no register (R145). -/
theorem exec_emits_of_finalized {s : State} {i : Instr} (h : s.engine.stage = .finalized) (hc : constructs i = false) :
    ∃ r, exec i s = .next (s.emit r) := by
  have hself : SameFinalized s s := ⟨rfl, rfl, h, h, rfl, rfl, rfl⟩
  obtain ⟨r, hr, -⟩ := hself.exec_answers_alike hc
  exact ⟨r, hr⟩

/-- A sequence of commands that construct no context runs to its end and writes no register of a Finalized one (R145). -/
theorem runCommands_keeps_finalized_engine {is : List Instr} (hc : ∀ i ∈ is, constructs i = false) {s : State}
    (h : s.engine.stage = .finalized) : ∃ t, runCommands is s = .next t ∧ t.engine = s.engine := by
  induction is generalizing s with
  | nil => exact ⟨s, rfl, rfl⟩
  | cons i is ih =>
    obtain ⟨hi, his⟩ := List.forall_mem_cons.mp hc
    obtain ⟨r, hr⟩ := exec_emits_of_finalized h hi
    rw [runCommands_cons_of_next is hr]
    exact ih his (s := s.emit r) h

/-- Settles O40: no command but a construction writes a Finalized context, which accepts no message. -/
theorem finalizedContextIsFrozen : Obligations.FinalizedContextIsFrozen := by
  refine fun s hs => ⟨fun _ hc => runCommands_keeps_finalized_engine hc hs, ?_⟩
  rintro i (rfl | ⟨bytes, rfl⟩)
  · exact exec_finalize_of_rejects (rejects_of_finalized hs)
  · exact exec_absorb_of_rejects bytes (rejects_of_finalized hs)

/-! ### FINALIZE -/

/-- The digest's bytes are S[0] and those after it (R144). -/
theorem digest_eq_map (e : Engine) :
    e.digest = (List.range e.sizeSel.outputBytes).map fun j => stateByte e.lanes j := by
  simp only [Engine.digest, memRead, Nat.zero_add]

/-- Under FINALIZE's opcode a command is the one word of R76. -/
theorem word_of_spells_finalize {w : Word} {i : Instr} (hop : opcodeField w = 4) (h : Spells [w] i) :
    w = 0x40000000 := by
  cases h with
  | finalize op reserved => exact List.singleton_inj.mp (header_of_spells (.finalize op reserved))
  | init op | initf op | absorb op | rddig op | status op => simp [op] at hop

/-- Settles O25: the stage decides whether FINALIZE runs, and the opcode leaves one word. -/
theorem finalizeResult : Obligations.FinalizeResult := by
  refine fun s => ⟨fun hstage => ?accepts, fun hstage => ?rejects, fun w hop hw => ?malformed⟩
  case accepts =>
    refine ⟨_, rfl, ?_⟩
    rw [exec_finalize_of_accepts (accepts_of_stage hstage), digest_eq_map]
    rfl
  case rejects => exact exec_finalize_of_rejects (rejects_of_stage hstage)
  case malformed => exact illegal_of_not_spells fun _ hi => hw (word_of_spells_finalize hop hi)

/-! ### RDDIG -/

/-- Settles O28: the stage is tested first, then the index. -/
theorem rddigResult : Obligations.RddigResult := fun _ _ =>
  ⟨exec_rddig_of_lt, exec_rddig_of_ge, exec_rddig_of_not_finalized⟩

end Sys2Proof.Machine

/-! PROOF. The sizes that INIT and ONESHOT accept (spec 00_scope R6, 43_api R160, R163), both ways. -/

namespace Sys2Proof.Machine

/-- A requested size selects the row of its outputBits and no other (R160). -/
theorem sizeOfBits_eq_some_iff {bits : Half} {z : SizeSel} : sizeOfBits bits = some z ↔ bits.toNat = z.outputBits := by
  refine ⟨fun h => ?_, sizeOfBits_of_outputBits⟩
  simp only [sizeOfBits] at h
  split_ifs at h with h224 h256 h384 h512
  all_goals
    cases h
    subst bits
    rfl

/-- A size that is no row's outputBits selects none (R160). -/
theorem sizeOfBits_eq_none_iff {bits : Half} : sizeOfBits bits = none ↔ ∀ z : SizeSel, bits.toNat ≠ z.outputBits := by
  simp only [Option.eq_none_iff_forall_ne_some, ne_eq, sizeOfBits_eq_some_iff]

/-- The sizes R160 and R170 list are those that select a row of the table (R6). -/
theorem mem_supportedBits_iff {bits : Half} : bits ∈ [224, 256, 384, 512] ↔ ∃ z, sizeOfBits bits = some z := by
  constructor
  · intro h
    simp only [List.mem_cons, List.not_mem_nil, or_false] at h
    rcases h with rfl | rfl | rfl | rfl
    · exact ⟨.s224, rfl⟩
    · exact ⟨.s256, rfl⟩
    · exact ⟨.s384, rfl⟩
    · exact ⟨.s512, rfl⟩
  · rintro ⟨z, hz⟩
    rw [BitVec.eq_of_toNat_eq ((sizeOfBits_eq_some_iff.mp hz).trans (toNat_outputBits z).symm)]
    cases z <;> decide

/-- With the default parameters, what passes ONESHOT's check is a size of the table with a CAP within it (R163). -/
theorem oneshotSize_default_eq_some_iff {bits cap : Half} {z : SizeSel} :
    oneshotSize Config.params bits cap = some z ↔ sizeOfBits bits = some z ∧ cap.toNat ≤ bits.toNat / 8 := by
  refine ⟨fun h => ?_, fun ⟨hz, hcap⟩ => oneshotSize_default_of_outputBits (sizeOfBits_eq_some_iff.mp hz) hcap⟩
  cases hz : sizeOfBits bits with
  | none => simp [oneshotSize, hz] at h
  | some y =>
    simp only [oneshotSize, hz] at h
    split_ifs at h with h224 hcap
    exact ⟨h, Nat.not_lt.mp hcap⟩

/-- ONESHOT's check in the words of R170's table, with the default parameters. -/
theorem passesOneshot_iff {bits cap : Half} :
    bits ∈ [224, 256, 384, 512] ∧ cap.toNat ≤ bits.toNat / 8 ↔ ∃ z, oneshotSize Config.params bits cap = some z := by
  simp only [mem_supportedBits_iff, oneshotSize_default_eq_some_iff, exists_and_right]

/-- With the default parameters, what fails ONESHOT's check is an unsupported size or a CAP past the digest (R163). -/
theorem oneshotSize_default_eq_none_iff {bits cap : Half} :
    oneshotSize Config.params bits cap = none ↔ sizeOfBits bits = none ∨ cap.toNat > bits.toNat / 8 := by
  cases hz : sizeOfBits bits with
  | none => simp [oneshotSize, hz]
  | some z => simp [Option.eq_none_iff_forall_ne_some, oneshotSize_default_eq_some_iff, hz]

end Sys2Proof.Machine

/-! PROOF. The results of INIT, INITF and ONESHOT in every stage, the transactions of their opcodes that spell no command,
and the complete state machine (spec 43_api R160 to R170). -/

namespace Sys2Proof.Machine

/-! ### INIT and INITF -/

/-- Under INIT's opcode a command needs reserved bits 0 (R73). -/
theorem reserved_of_spells_init {w : Word} {rest : List Word} {i : Instr} (hop : opcodeField w = 1)
    (h : Spells (w :: rest) i) : w.extractLsb' 17 11 = 0 := by
  cases h with
  | init _ reserved => exact (reserved_init w).mp reserved
  | initf op | absorb op | finalize op | oneshot op | rddig op | status op => simp [op] at hop

/-- Under INITF's opcode a command needs both reserved fields 0 (R74). -/
theorem reserved_of_spells_initf {w : Word} {rest : List Word} {i : Instr} (hop : opcodeField w = 2)
    (h : Spells (w :: rest) i) : w.extractLsb' 17 11 = 0 ∧ w.extractLsb' 2 14 = 0 := by
  cases h with
  | initf _ reserved => exact (reserved_initf w).mp reserved
  | init op | absorb op | finalize op | oneshot op | rddig op | status op => simp [op] at hop

/-- Settles O22: the size decides whether a context is constructed, and a reserved bit breaks the format. -/
theorem initResult : Obligations.InitResult := fun _ _ _ =>
  ⟨fun _ hz => exec_init_of_size (sizeOfBits_of_outputBits hz),
   fun hnone => exec_init_of_none (sizeOfBits_eq_none_iff.mpr hnone),
   fun _ hop hbad => illegal_of_not_spells fun _ hi => hbad (reserved_of_spells_init hop hi)⟩

/-- Settles O23: INITF has no check, and a reserved bit breaks the format. -/
theorem initfResult : Obligations.InitfResult := by
  refine fun m z s => ⟨exec_initf m z s, fun w hop hbad => illegal_of_not_spells fun i hi => ?_⟩
  obtain ⟨hhigh, hlow⟩ := reserved_of_spells_initf hop hi
  exact hbad.elim (· hhigh) (· hlow)

/-! ### ONESHOT -/

/-- ONESHOT of this machine is the one of the default parameters (R9). -/
theorem exec_oneshot (m : Mode) (bits cap : Half) (bytes : List Byte) (s : State) :
    exec (.oneshot m bits cap bytes) s = oneshotWith Config.params m bits cap bytes s := rfl

/-- A read from the first byte of the state (R12). -/
theorem memRead_zero (a : Lanes) (n : Nat) : memRead a 0 n = (List.range n).map fun j => stateByte a j := by
  simp only [memRead, Nat.zero_add]

/-- The context ONESHOT leaves: the payload absorbed from a fresh context, padded and permuted once (R164). -/
theorem hashed_eq (z : SizeSel) (m : Mode) (bytes : List Byte) :
    Engine.hashed z m bytes =
      { lanes := keccakF (memXor (memXor ((Engine.construct z m).absorbBytes bytes).lanes
          ((Engine.construct z m).absorbBytes bytes).pos m.suffix) (z.rateBytes - 1) 0x80),
        stage := .finalized, mode := m, sizeSel := z, pos := 0 } := by
  have hmode : ((Engine.construct z m).absorb bytes).mode = m := absorb_mode _ bytes
  have hsize : ((Engine.construct z m).absorb bytes).sizeSel = z := absorb_sizeSel _ bytes
  refine Engine.eq_of_fields ?_ rfl hmode hsize rfl
  rw [Engine.hashed, finalize_lanes, pad_lanes, hmode, hsize, absorb_lanes, absorb_pos]

/-- Under ONESHOT's opcode a command needs a second header word, reserved bits 0 and the word count of N (R77). -/
theorem format_of_spells_oneshot {w : Word} {rest : List Word} {i : Instr} (hop : opcodeField w = 5)
    (h : Spells (w :: rest) i) :
    ∃ v ps, rest = v :: ps ∧ w.extractLsb' 17 11 = 0 ∧ ps.length = payloadWords (lowHalf v).toNat := by
  cases h with
  | oneshot _ reserved count => exact ⟨_, _, rfl, (reserved_oneshot w).mp reserved, count⟩
  | init op | initf op | absorb op | finalize op | rddig op | status op => simp [op] at hop

/-- Settles O26: ONESHOT's check decides whether the payload is hashed, and a malformed transaction breaks the format. -/
theorem oneshotResult : Obligations.OneshotResult := by
  refine fun m bits cap bytes s =>
    ⟨fun z hz hcap => ?accepts, fun hbad => ?rejects, fun w0 w1 rest hop => ⟨?oneWord, fun hbad => ?malformed⟩⟩
  case accepts =>
    refine ⟨_, _, rfl, rfl, ?_⟩
    rw [exec_oneshot, oneshotWith_of_size bytes (oneshotSize_default_of_outputBits hz hcap), hashed_eq, memRead_zero]
    rfl
  case rejects =>
    exact oneshotWith_of_none bytes (oneshotSize_default_eq_none_iff.mpr (hbad.imp_left sizeOfBits_eq_none_iff.mpr))
  case oneWord =>
    refine illegal_of_not_spells fun i hi => ?_
    obtain ⟨v, ps, hrest, -⟩ := format_of_spells_oneshot hop hi
    cases hrest
  case malformed =>
    refine illegal_of_not_spells fun i hi => ?_
    obtain ⟨v, ps, hrest, hreserved, hcount⟩ := format_of_spells_oneshot hop hi
    cases hrest
    exact hbad.elim (· hreserved) (· hcount)

/-- Settles O27: the parameter is read by ONESHOT's check alone, and there at 224 bits alone. -/
theorem oneshotParameterExcludesOnly224 : Obligations.OneshotParameterExcludesOnly224 := by
  refine fun p m bits cap bytes s => ⟨fun hp hbits => ?excluded, fun h => ?same⟩
  case excluded => exact oneshotWith_of_none bytes (oneshotSize_excluded cap hp hbits)
  case same => rw [exec_oneshot, oneshotWith, oneshotWith, oneshotSize_eq_default cap h]

/-! ### The complete state machine -/

/-- The stages the table's rows of ABSORB and FINALIZE name (R131, R142, R170). -/
theorem mem_messageStages_iff {g : Stage} : g ∈ [.initialized, .absorbing] ↔ g.acceptsMessage = true := by
  cases g <;> decide

/-- `i`, run in `s`, answers once with the status code of its cell of R170's table and reaches the cell's stage; where
the cell says "same", no register changes. -/
def ReachesCell (i : Instr) (s : State) : Prop :=
  ∃ (t : State) (r : Response),
    exec i s = .next t ∧ t.responsePort = s.responsePort ++ [r] ∧ r.status.code = (lifecycleCell i s.engine).1 ∧
    (match (lifecycleCell i s.engine).2 with
     | none => t.engine = s.engine
     | some g => t.engine.stage = g)

section Cells
variable {i : Instr} {s : State} {e : Engine} {r : Response}

/-- A response alone reaches a cell that says "same". -/
theorem reachesCell_of_emit (hexec : exec i s = .next (s.emit r))
    (hcell : lifecycleCell i s.engine = (r.status.code, none)) : ReachesCell i s := by
  refine ⟨_, r, hexec, rfl, ?_⟩
  rw [hcell]
  exact ⟨rfl, rfl⟩

/-- A new context reaches a cell that names its stage. -/
theorem reachesCell_of_setEngine (hexec : exec i s = .next ((s.setEngine e).emit r))
    (hcell : lifecycleCell i s.engine = (r.status.code, some e.stage)) : ReachesCell i s := by
  refine ⟨_, r, hexec, rfl, ?_⟩
  rw [hcell]
  exact ⟨rfl, rfl⟩

end Cells

/-- Every command in every stage does what its cell of the table says (R170). -/
theorem exec_reachesCell (i : Instr) (s : State) : ReachesCell i s := by
  cases i with
  | init m bits =>
    cases hz : sizeOfBits bits with
    | none => exact reachesCell_of_emit (exec_init_of_none hz) (if_neg (mem_supportedBits_iff.not.mpr (by simp [hz])))
    | some z => exact reachesCell_of_setEngine (exec_init_of_size hz) (if_pos (mem_supportedBits_iff.mpr ⟨z, hz⟩))
  | initf m z => exact reachesCell_of_setEngine (exec_initf m z s) rfl
  | absorb bytes =>
    cases hs : s.engine.stage.acceptsMessage with
    | false =>
      exact reachesCell_of_emit (exec_absorb_of_rejects bytes hs) (if_neg (mem_messageStages_iff.not.mpr (by simp [hs])))
    | true => exact reachesCell_of_setEngine (exec_absorb_of_accepts bytes hs) (if_pos (mem_messageStages_iff.mpr hs))
  | finalize =>
    cases hs : s.engine.stage.acceptsMessage with
    | false =>
      exact reachesCell_of_emit (exec_finalize_of_rejects hs) (if_neg (mem_messageStages_iff.not.mpr (by simp [hs])))
    | true => exact reachesCell_of_setEngine (exec_finalize_of_accepts hs) (if_pos (mem_messageStages_iff.mpr hs))
  | oneshot m bits cap bytes =>
    cases hz : oneshotSize Config.params bits cap with
    | none =>
      exact reachesCell_of_emit (oneshotWith_of_none bytes hz) (if_neg (passesOneshot_iff.not.mpr (by simp [hz])))
    | some z => exact reachesCell_of_setEngine (oneshotWith_of_size bytes hz) (if_pos (passesOneshot_iff.mpr ⟨z, hz⟩))
  | rddig idx =>
    by_cases hs : s.engine.stage = .finalized
    · rcases Nat.lt_or_ge idx.toNat s.engine.sizeSel.outputBytes with hlt | hge
      · exact reachesCell_of_emit (exec_rddig_of_lt hs hlt) ((if_neg (not_not.mpr hs)).trans (if_pos hlt))
      · exact reachesCell_of_emit (exec_rddig_of_ge hs hge)
          ((if_neg (not_not.mpr hs)).trans (if_neg (Nat.not_lt.mpr hge)))
    · exact reachesCell_of_emit (exec_rddig_of_not_finalized hs) (if_pos hs)
  | status => exact reachesCell_of_emit (exec_status s) rfl

/-- Settles O30: a command does what its cell says, and a transaction that spells none is answered and dropped. -/
theorem lifecycleTable : Obligations.LifecycleTable :=
  ⟨exec_reachesCell, fun _ _ _ _ hport herr => ⟨_, _, step_of_illegal hport herr, rfl, rfl, rfl⟩⟩

end Sys2Proof.Machine

/-! PROOF. What OK responses certify (spec 60_exceptions R196, 42_finalize R142), and the idle core (60_exceptions R195). -/

namespace Sys2Proof.Machine

/-- ABSORB and FINALIZE answer PRECONDITION in a stage that accepts no message (R131, R142). -/
theorem exec_message_of_rejects {i : Instr} (hi : i = .finalize ∨ ∃ bytes, i = .absorb bytes) {s : State}
    (h : s.engine.stage.acceptsMessage = false) :
    exec i s = .next (s.emit { status := .precondition, data := [] }) := by
  rcases hi with rfl | ⟨bytes, rfl⟩
  · exact exec_finalize_of_rejects h
  · exact exec_absorb_of_rejects bytes h

/-- ABSORBs and FINALIZEs in a stage that accepts no message are each answered PRECONDITION and do nothing else. -/
theorem runCommands_of_rejects {is : List Instr} (his : ∀ i ∈ is, i = .finalize ∨ ∃ bytes, i = .absorb bytes)
    {s : State} (h : s.engine.stage.acceptsMessage = false) :
    runCommands is s =
      .next (s.setResponses
        (s.responsePort ++ List.replicate is.length { status := .precondition, data := [] })) := by
  induction is generalizing s with
  | nil => rw [List.length_nil, List.replicate_zero, List.append_nil]; rfl
  | cons i is ih =>
    obtain ⟨hi, htail⟩ := List.forall_mem_cons.mp his
    rw [runCommands_cons_of_next is (exec_message_of_rejects hi h), ih htail (s := s.emit _) h,
      State.emit_responsePort, List.append_assoc, List.singleton_append, List.length_cons, List.replicate_succ]
    rfl

/-- ABSORBs and a FINALIZE that were all answered OK ran in a stage that accepts a message: else the first response is
an error (R196). -/
theorem accepts_of_allOk {chunks : List (List Byte)} {s t : State}
    (hrun : runCommands (chunks.map Instr.absorb ++ [.finalize]) s = .next t)
    (hok : AllOkFrom s.responsePort.length t) : s.engine.stage.acceptsMessage = true := by
  by_contra hrejects
  have hmessage : ∀ i ∈ chunks.map Instr.absorb ++ [.finalize], i = .finalize ∨ ∃ bytes, i = .absorb bytes := by
    intro i hi
    rcases List.mem_append.mp hi with habsorb | hfinalize
    · obtain ⟨bytes, -, rfl⟩ := List.mem_map.mp habsorb
      exact .inr ⟨bytes, rfl⟩
    · exact .inl (List.mem_singleton.mp hfinalize)
  rw [runCommands_of_rejects hmessage (Bool.eq_false_of_not_eq_true hrejects)] at hrun
  cases hrun
  have herror := hok { status := .precondition, data := [] } (by simp)
  cases herror

/-- Settles O44: the OK responses rule out a rejecting stage, and in an accepting one the run is known. -/
theorem okResponsesCertifyTheDigest : Obligations.OkResponsesCertifyTheDigest := by
  intro s t chunks hrun hok
  have haccepts := accepts_of_allOk hrun hok
  rw [runCommands_absorbs_finalize chunks haccepts] at hrun
  cases hrun
  refine ⟨List.mem_pair.mp (mem_messageStages_iff.mpr haccepts), finalize_stage _, ?_⟩
  rw [← List.append_assoc, List.getLast?_concat]
  rfl

/-- Settles O37: a step that finds no event is idle. -/
theorem idleCoreKeepsItsState : Obligations.IdleCoreKeepsItsState := fun _ => step_of_empty

end Sys2Proof.Machine

/-! PROOF. What a reset event does to the whole state (spec 70_reset_and_hazards R200, R201). -/

namespace Sys2Proof.Machine

/-- A reset event is taken from the command port, and the engine becomes the reset one; the responses stay as they are. -/
theorem step_of_reset_eq {s : State} {cut : Option Transaction} {rest : List HostEvent}
    (hport : s.commandPort = .reset cut :: rest) :
    step s = .next ((s.setCommands rest).setEngine Engine.reset) :=
  step_of_reset hport

/-- Settles O35: the state after the event, register by register, is R33's; the interrupted transaction plays no part. -/
theorem resetEventRestoresTheResetState : Obligations.ResetEventRestoresTheResetState := by
  intro s cut rest hport
  rw [step_of_reset_eq hport]
  rfl

end Sys2Proof.Machine

/-! PROOF. The invariants of a context (spec 10_state R34, R35): constructing, absorbing and finalizing establish or keep
them, and so does every command and every step. -/

namespace Sys2Proof.Machine

/-! ### The operations -/

theorem construct_inv (z : SizeSel) (m : Mode) : (Engine.construct z m).Inv :=
  ⟨rateBytes_pos z, fun _ => ⟨rfl, rfl⟩, nofun⟩

/-- The position stays below the rate, and the stage is then Absorbing, of which nothing else is asked. -/
theorem absorb_inv {e : Engine} (bytes : List Byte) (h : e.pos < e.sizeSel.rateBytes) : (e.absorb bytes).Inv := by
  refine ⟨?_, nofun, nofun⟩
  rw [absorb_pos, absorb_sizeSel, absorbBytes_pos bytes h]
  exact Nat.mod_lt _ (rateBytes_pos _)

theorem finalize_inv (e : Engine) : e.finalize.Inv :=
  ⟨rateBytes_pos e.sizeSel, nofun, fun _ => finalize_pos e⟩

theorem reset_inv : Engine.reset.Inv := ⟨rateBytes_pos .s224, nofun, nofun⟩

/-! ### Commands and steps -/

/-- A command leaves the context as it is or gives it to one of the operations. -/
theorem exec_keeps_inv {s : State} (h : s.Inv) (i : Instr) :
    ∃ e r, exec i s = .next ((s.setEngine e).emit r) ∧ e.Inv := by
  cases i with
  | init m bits =>
    cases hz : sizeOfBits bits with
    | none => exact ⟨s.engine, _, exec_init_of_none hz, h⟩
    | some z => exact ⟨_, _, exec_init_of_size hz, construct_inv z m⟩
  | initf m z => exact ⟨_, _, exec_initf m z s, construct_inv z m⟩
  | absorb bytes =>
    cases hs : s.engine.stage.acceptsMessage with
    | false => exact ⟨s.engine, _, exec_absorb_of_rejects bytes hs, h⟩
    | true =>
      obtain ⟨hpos, -, -⟩ := h
      exact ⟨_, _, exec_absorb_of_accepts bytes hs, absorb_inv bytes hpos⟩
  | finalize =>
    cases hs : s.engine.stage.acceptsMessage with
    | false => exact ⟨s.engine, _, exec_finalize_of_rejects hs, h⟩
    | true => exact ⟨_, _, exec_finalize_of_accepts hs, finalize_inv _⟩
  | oneshot m bits cap bytes =>
    cases hz : oneshotSize Config.params bits cap with
    | none => exact ⟨s.engine, _, oneshotWith_of_none bytes hz, h⟩
    | some z => exact ⟨_, _, oneshotWith_of_size bytes hz, finalize_inv _⟩
  | rddig idx =>
    obtain ⟨r, hr⟩ := exec_rddig_emits idx s
    exact ⟨s.engine, r, hr, h⟩
  | status => exact ⟨s.engine, _, exec_status s, h⟩

/-- Settles O38, by the event the step takes: none, a reset, a command or a transaction that spells none. -/
theorem everyStepKeepsTheContextInvariant : Obligations.EveryStepKeepsTheContextInvariant := by
  intro s t h hstep
  match hport : s.commandPort with
  | [] =>
    cases (step_of_empty hport).symm.trans hstep
    exact h
  | .reset _ :: rest =>
    cases (step_of_reset_eq hport).symm.trans hstep
    exact reset_inv
  | .transaction ws :: rest =>
    match hd : decode ws with
    | .cmd i =>
      obtain ⟨e, r, hexec, he⟩ := exec_keeps_inv (s := s.setCommands rest) h i
      cases ((step_of_command hport hd).trans hexec).symm.trans hstep
      exact he
    | .illegal _ =>
      cases (step_of_illegal hport hd).symm.trans hstep
      exact h

/-- Settles O39: it is the reset engine's invariant. -/
theorem resetMeetsTheContextInvariant : Obligations.ResetMeetsTheContextInvariant := reset_inv

end Sys2Proof.Machine

/-! PROOF. What a host can observe before a context exists (spec 10_state R33). -/

namespace Sys2Proof.Machine

/-- In NoContext a command answers and writes the same whatever the registers hold, or writes nothing. -/
theorem exec_of_noContext (i : Instr) :
    (∃ e r, ∀ s : State, s.engine.stage = .noContext → exec i s = .next ((s.setEngine e).emit r)) ∨
    (∃ r, ∀ s : State, s.engine.stage = .noContext → exec i s = .next (s.emit r)) := by
  cases hc : constructs i with
  | true =>
    rcases exec_of_constructs hc with ⟨e, data, hok⟩ | herror
    · exact .inl ⟨e, _, fun s _ => hok s⟩
    · exact .inr ⟨_, fun s _ => herror s⟩
  | false =>
    cases i with
    | init | initf | oneshot => simp [constructs] at hc
    | absorb bytes => exact .inr ⟨_, fun s hs => exec_absorb_of_rejects bytes (rejects_of_stage (.inl hs))⟩
    | finalize => exact .inr ⟨_, fun s hs => exec_finalize_of_rejects (rejects_of_stage (.inl hs))⟩
    | rddig idx => exact .inr ⟨_, fun s hs => exec_rddig_of_not_finalized (by rw [hs]; nofun)⟩
    | status =>
      refine .inr ⟨{ status := .ok, data := wordBytes 0 }, fun s hs => ?_⟩
      rw [exec_status, statusWord_of_noContext hs]

/-- In NoContext a step takes its event with the same responses whatever the registers hold, and either it leaves the
same registers from every state or it leaves those it finds. -/
theorem step_of_noContext (ev : HostEvent) :
    (∃ e rs, ∀ (s : State) (rest : List HostEvent), s.engine.stage = .noContext → s.commandPort = ev :: rest →
      step s = .next { engine := e, commandPort := rest, responsePort := s.responsePort ++ rs }) ∨
    (∃ rs, ∀ (s : State) (rest : List HostEvent), s.engine.stage = .noContext → s.commandPort = ev :: rest →
      step s = .next { engine := s.engine, commandPort := rest, responsePort := s.responsePort ++ rs }) := by
  cases ev with
  | reset cut =>
    refine .inl ⟨Engine.reset, [], fun s rest _ hport => ?_⟩
    rw [step_of_reset_eq hport, List.append_nil]
    rfl
  | transaction ws =>
    cases hd : decode ws with
    | cmd i =>
      rcases exec_of_noContext i with ⟨e, r, hexec⟩ | ⟨r, hexec⟩
      · exact .inl ⟨e, [r], fun s rest hs hport => (step_of_command hport hd).trans (hexec (s.setCommands rest) hs)⟩
      · exact .inr ⟨[r], fun s rest hs hport => (step_of_command hport hd).trans (hexec (s.setCommands rest) hs)⟩
    | illegal err => exact .inr ⟨[_], fun s rest _ hport => step_of_illegal hport hd⟩

/-- States that only their unobserved registers tell apart are equal, or both are NoContext with the same ports. -/
theorem eq_or_noContext_of_sameButUnobserved {s t : State} (h : SameButUnobserved s t) :
    s = t ∨ (s.engine.stage = .noContext ∧ t.engine.stage = .noContext) := by
  obtain ⟨hcommands, hresponses, hstage, hengine⟩ := h
  by_cases hs : s.engine.stage = .noContext
  · exact .inr ⟨hs, hstage ▸ hs⟩
  · exact .inl (State.eq_of_fields (hengine hs) hcommands hresponses)

theorem sameButUnobserved_refl (s : State) : SameButUnobserved s s := ⟨rfl, rfl, rfl, fun _ => rfl⟩

/-- Settles O41: equal states step alike, and two NoContext ones by the event that comes next. -/
theorem registersBeforeConstructionAreUnobservable : Obligations.RegistersBeforeConstructionAreUnobservable := by
  intro s t h
  rcases eq_or_noContext_of_sameButUnobserved h with rfl | ⟨hs, ht⟩
  · obtain ⟨u, hu⟩ := step_continues s
    exact ⟨u, u, hu, hu, sameButUnobserved_refl u⟩
  obtain ⟨hcommands, hresponses, hstage, hengine⟩ := h
  match hport : s.commandPort with
  | [] =>
    exact ⟨s, t, step_of_empty hport, step_of_empty (hcommands ▸ hport), hcommands, hresponses, hstage, hengine⟩
  | ev :: rest =>
    have hport' : t.commandPort = ev :: rest := hcommands ▸ hport
    rcases step_of_noContext ev with ⟨e, rs, hstep⟩ | ⟨rs, hstep⟩
    · refine ⟨_, _, hstep s rest hs hport, hstep t rest ht hport', ?_⟩
      rw [hresponses]
      exact sameButUnobserved_refl _
    · exact ⟨_, _, hstep s rest hs hport, hstep t rest ht hport', rfl, congrArg (· ++ rs) hresponses, hstage, hengine⟩

end Sys2Proof.Machine

/-! PROOF. What absorption does to the position, the bytes and the lanes (spec 41_absorb R132, R134, R135, 20_memory R56). -/

namespace Sys2Proof.Machine

/-! ### The number of permutations -/

theorem absorbCounted_eq (e : Engine) (n : Nat) (b : Byte) :
    absorbCounted (e, n) b = (e.absorbByte b, if e.pos + 1 = e.sizeSel.rateBytes then n + 1 else n) := rfl

/-- Counting on from n, the permutations run are the blocks that fill (R132). -/
theorem foldl_absorbCounted {e : Engine} (bytes : List Byte) (n : Nat) (h : e.pos < e.sizeSel.rateBytes) :
    (bytes.foldl absorbCounted (e, n)).2 = n + (e.pos + bytes.length) / e.sizeSel.rateBytes := by
  induction bytes generalizing e n with
  | nil => exact (congrArg (n + ·) (Nat.div_eq_of_lt h)).symm
  | cons b bytes ih =>
    rw [List.foldl_cons, absorbCounted_eq, List.length_cons]
    by_cases hfull : e.pos + 1 = e.sizeSel.rateBytes
    · have hblock : e.pos + (bytes.length + 1) = e.sizeSel.rateBytes + bytes.length := by omega
      rw [if_pos hfull, absorbByte_of_full b hfull, ih _ (rateBytes_pos _), hblock,
        Nat.add_div_left _ (rateBytes_pos _), Nat.zero_add, Nat.add_assoc, Nat.add_comm 1]
    · have hlt : e.pos + 1 < e.sizeSel.rateBytes := by omega
      rw [if_neg hfull, absorbByte_of_lt b hlt, ih _ hlt, Nat.add_assoc e.pos, Nat.add_comm 1]

/-- Settles O16: the position counts modulo the rate, and the permutations count the filled blocks. -/
theorem absorptionPositionAndPermutationCount : Obligations.AbsorptionPositionAndPermutationCount := by
  intro e bytes h
  refine ⟨absorbBytes_pos bytes h, ?_⟩
  rw [Engine.permutations, foldl_absorbCounted bytes 0 h, Nat.zero_add]

/-! ### The frame -/

/-- Settles O17: within a block by its bytes, and for one byte by `MemXor`'s frame and the two outcomes of the byte step. -/
theorem absorptionChangesOnlyItsRateBytes : Obligations.AbsorptionChangesOnlyItsRateBytes := by
  refine ⟨fun e bytes j h hj => stateByte_absorbBytes bytes h hj, fun e b h => ⟨fun j hj => ?own, ?capacity, ?lanes⟩⟩
  case own =>
    rw [stateByte_memXor _ _ _ hj]
    exact ite_congr rfl (fun hsame => by rw [hsame]) fun _ => rfl
  case capacity =>
    intro j hrate hj
    rw [stateByte_memXor _ _ _ hj, if_neg (by omega)]
  case lanes =>
    rcases absorbByte_cases e b with ⟨hfull, heq⟩ | ⟨hne, heq⟩
    · exact .inr ⟨hfull, congrArg Engine.lanes heq⟩
    · exact .inl ⟨by omega, congrArg Engine.lanes heq⟩

/-! ### Eight aligned bytes as a lane -/

/-- Byte q of a lane made of bytes (R50). -/
theorem extractByte_laneOfBytes (bs : List Byte) {q : Nat} (hq : q < 8) :
    (laneOfBytes bs).extractLsb' (8 * q) 8 = bs.getD q 0 := by
  apply BitVec.eq_of_getLsbD_eq
  intro k hk
  have hbyte : (8 * q + k) / 8 = q := by omega
  have hbit : (8 * q + k) % 8 = k := by omega
  rw [BitVec.getLsbD_extractLsb', laneOfBytes_getLsbD bs (by omega), hbyte, hbit, decide_eq_true hk, Bool.true_and]

/-- Bytes XORed into lane i as one lane are XORed into its bytes, and into no byte of another lane. -/
theorem stateByte_xorLane (a : Lanes) (i : Nat) (bs : List Byte) {j : Nat} (hj : j < 200) :
    stateByte (a.setIfInBounds i (lane a i ^^^ laneOfBytes bs)) j =
      if j / 8 = i then stateByte a j ^^^ bs.getD (j % 8) 0 else stateByte a j := by
  rw [stateByte, lane_set _ _ _ (by omega)]
  by_cases hlane : j / 8 = i
  · rw [if_pos hlane, if_pos hlane.symm, BitVec.extractLsb'_xor, extractByte_laneOfBytes bs (Nat.mod_lt j (by decide)),
      stateByte, hlane]
  · rw [if_neg hlane, if_neg (Ne.symm hlane), stateByte]

/-- Absorption writes the lanes and the position alone. -/
theorem absorbBytes_withLanesPos (e : Engine) (bs : List Byte) (a : Lanes) (p : Nat) :
    { e.absorbBytes bs with lanes := a, pos := p } = { e with lanes := a, pos := p } :=
  Engine.eq_of_fields rfl (absorbBytes_stage e bs) (absorbBytes_mode e bs) (absorbBytes_sizeSel e bs) rfl

section Aligned
variable {e : Engine} {bs : List Byte} (b : Byte) (halign : e.pos % 8 = 0) (hpos : e.pos < e.sizeSel.rateBytes)
  (hlen : bs.length = 7)
include halign hpos hlen

/-- Seven bytes absorbed from a lane boundary and an eighth XORed in are the eight XORed in as one lane (R56). -/
theorem memXor_absorbBytes_aligned :
    memXor (e.absorbBytes bs).lanes (e.pos + 7) b =
      e.lanes.setIfInBounds (e.pos / 8) (lane e.lanes (e.pos / 8) ^^^ laneOfBytes (bs ++ [b])) := by
  obtain ⟨-, -, -, hrate, -⟩ := size_invariants e.sizeSel
  apply lanes_ext_bytes
  intro j hj
  rw [stateByte_memXor_eq_xor _ _ _ hj, stateByte_absorbBytes bs (by omega) hj, stateByte_xorLane _ _ _ hj]
  by_cases hlane : j / 8 = e.pos / 8
  · have hindex : j % 8 = j - e.pos := by omega
    rw [if_pos hlane, hindex]
    by_cases hlast : j = e.pos + 7
    · have heighth : j - e.pos = bs.length := by omega
      rw [if_pos hlast, if_neg (by omega), heighth, List.getD_append_right _ _ _ _ le_rfl, Nat.sub_self,
        List.getD_cons_zero]
    · rw [if_neg hlast, if_pos (by omega), List.getD_append _ _ _ _ (by omega)]
      exact BitVec.xor_zero
  · rw [if_neg hlane, if_neg (by omega), if_neg (by omega)]
    exact BitVec.xor_zero

/-- Both ways run the permutation when the eighth byte fills the block (R56). -/
theorem absorbBytes_aligned : e.absorbBytes (bs ++ [b]) = e.absorbLane (bs ++ [b]) := by
  obtain ⟨-, -, -, hrate, -⟩ := size_invariants e.sizeSel
  have hnext : (e.absorbBytes bs).pos = e.pos + 7 := by
    rw [absorbBytes_pos bs hpos, hlen, Nat.mod_eq_of_lt (by omega)]
  have hmixed := memXor_absorbBytes_aligned b halign hpos hlen
  rw [absorbBytes_append, absorbBytes_cons, absorbBytes_nil, Engine.absorbLane, ← hmixed]
  rcases absorbByte_cases (e.absorbBytes bs) b with ⟨hfull, heq⟩ | ⟨hne, heq⟩
  · rw [hnext, absorbBytes_sizeSel] at hfull
    rw [heq, if_pos hfull, hnext, absorbBytes_withLanesPos]
    rfl
  · rw [hnext, absorbBytes_sizeSel] at hne
    rw [heq, if_neg hne, hnext, absorbBytes_withLanesPos]
    rfl

end Aligned

/-- Settles O18: seven bytes and an eighth. -/
theorem alignedLaneAbsorptionIsByteAbsorption : Obligations.AlignedLaneAbsorptionIsByteAbsorption :=
  fun _ b0 b1 b2 b3 b4 b5 b6 b7 halign hpos =>
    absorbBytes_aligned (bs := [b0, b1, b2, b3, b4, b5, b6]) b7 halign hpos rfl

/-! ### The block view -/

/-- Bytes that fill no block are XORed in as one block (R135). -/
theorem absorbBytes_lanes_of_lt {e : Engine} {bs : List Byte} (hpos : e.pos = 0)
    (hlen : bs.length < e.sizeSel.rateBytes) :
    (e.absorbBytes bs).lanes = xorLanes e.lanes (blockLanes bs) := by
  apply lanes_ext_bytes
  intro j hj
  rw [stateByte_absorbBytes bs (by omega) hj, stateByte_xorLanes _ _ hj, stateByte_blockLanes _ hj, hpos]
  rcases Nat.lt_or_ge j bs.length with hlt | hge
  · rw [if_pos (by omega), Nat.sub_zero]
  · rw [if_neg (by omega), List.getD_eq_default _ _ hge]
    exact BitVec.xor_zero.symm

theorem remainder_length (rate : Nat) (bs : List Byte) : (remainder rate bs).length = bs.length % rate := by
  rw [remainder, List.length_drop, Nat.mod_eq_sub_div_mul]

/-- The full blocks, then the remainder (R135). -/
theorem absorbBytes_lanes_eq_blockView (z : SizeSel) (m : Mode) (msg : List Byte) :
    ((Engine.construct z m).absorbBytes msg).lanes = blockView z.rateBytes msg := by
  have hblocks := absorbBytes_blocks (e := Engine.construct z m) msg rfl (k := msg.length / z.rateBytes)
    (Nat.div_mul_le_self _ _)
  have hrest : (remainder z.rateBytes msg).length < z.rateBytes := by
    rw [remainder_length]
    exact Nat.mod_lt _ (rateBytes_pos z)
  have hsplit : msg = msg.take (msg.length / z.rateBytes * z.rateBytes) ++ remainder z.rateBytes msg :=
    (List.take_append_drop _ msg).symm
  rw [show (Engine.construct z m).sizeSel = z from rfl] at hblocks
  conv_lhs => rw [hsplit, absorbBytes_append, hblocks]
  rw [absorbBytes_lanes_of_lt (by rfl) (by exact hrest)]
  rfl

/-- Settles O19: the lanes are the block view's, and the position counts from 0 modulo the rate. -/
theorem absorptionIsTheBlockView : Obligations.AbsorptionIsTheBlockView := by
  intro z m msg
  refine ⟨absorbBytes_lanes_eq_blockView z m msg, ?_, remainder_length _ msg⟩
  rw [absorbBytes_pos msg (rateBytes_pos z), remainder_length, Engine.construct, Nat.zero_add]

/-! ### Any chunks -/

/-- ABSORBs of any chunks, or of none, leave the lanes and the position of one ABSORB (R133). -/
theorem foldl_absorb_lanes_pos (e : Engine) (chunks : List (List Byte)) :
    (chunks.foldl Engine.absorb e).lanes = (e.absorb chunks.flatten).lanes ∧
    (chunks.foldl Engine.absorb e).pos = (e.absorb chunks.flatten).pos := by
  cases chunks with
  | nil => exact ⟨rfl, rfl⟩
  | cons c chunks =>
    rw [foldl_absorb_cons]
    exact ⟨rfl, rfl⟩

/-- Settles O43: the chunks fold into one absorb, and a FINALIZE after either finalizes the same context. -/
theorem absorptionIsIncremental : Obligations.AbsorptionIsIncremental := by
  intro s chunks hstage
  have haccepts := accepts_of_stage hstage
  obtain ⟨hlanes, hpos⟩ := foldl_absorb_lanes_pos s.engine chunks
  refine ⟨_, _, _, _, (s.engine.absorb chunks.flatten).finalize.digest, runCommands_absorbs chunks haccepts,
    exec_absorb_of_accepts chunks.flatten haccepts, hlanes, hpos, fun hne => ?engine,
    exec_finalize_of_accepts (foldl_absorb_accepts chunks haccepts), exec_finalize_of_accepts (by rfl), ?digest, rfl⟩
  case engine =>
    obtain ⟨c, cs, rfl⟩ := List.exists_cons_of_ne_nil hne
    exact foldl_absorb_cons s.engine c cs
  case digest => rw [State.emit_responsePort, State.setEngine_responsePort, finalize_foldl_absorb]

end Sys2Proof.Machine

/-! PROOF. The reads repeat (spec 20_memory R57). -/

namespace Sys2Proof.Machine

/-- A command that only answered answers the same again, since it finds the same registers. -/
theorem exec_repeats_of_emits {i : Instr} {s : State} {r : Response} (h : exec i s = .next (s.emit r)) :
    exec i (s.emit r) = .next ((s.emit r).emit r) := by
  obtain ⟨e, r', hexec⟩ := exec_reads_engine i s.engine
  have hsame : s.emit r = (s.setEngine e).emit r' := Host.Outcome.next.inj (h.symm.trans (hexec s rfl))
  have he : s.engine = e := congrArg State.engine hsame
  have hr : r = r' := by simpa using congrArg State.responsePort hsame
  rw [hexec (s.emit r) rfl, ← he, ← hr]
  rfl

theorem exec_read_emits {i : Instr} (hi : i = .status ∨ ∃ idx, i = .rddig idx) (s : State) :
    ∃ r, exec i s = .next (s.emit r) := by
  rcases hi with rfl | ⟨idx, rfl⟩
  · exact ⟨_, exec_status s⟩
  · exact exec_rddig_emits idx s

/-- Settles O32: a read only answers, and so repeats. -/
theorem readCommandsRepeat : Obligations.ReadCommandsRepeat := by
  intro i s hi
  obtain ⟨r, hr⟩ := exec_read_emits hi s
  refine ⟨r, ?_⟩
  rw [runCommands_cons_of_next _ hr, runCommands_cons_of_next _ (exec_repeats_of_emits hr)]
  exact congrArg Host.Outcome.next (State.eq_of_fields rfl rfl (List.append_assoc ..))

end Sys2Proof.Machine
